-- ==== Sys2Proof/Word.lean ====
section
/-! DEFINITION. The word types of HG32 (spec/00_scope.md R6, R7, R11): every value is an unsigned
number of a stated width. -/

namespace Sys2Proof

/-- A `u32`: seed, digest, accumulator or constant word (R6). -/
abbrev Word := BitVec 32

/-- A `u16`: one lane of the 16-bit-lane multiply (R6, R162). -/
abbrev Half := BitVec 16

/-- A `u8`: one byte of the input buffer (R52). -/
abbrev Byte := BitVec 8

end Sys2Proof
end

