-- ==== Sys2Proof/Config.lean ====
section
/-! DEFINITION. What an implementation of HG32 fixes (spec/00_scope.md section 4) and the free values
the spec leaves open. A constant without a body is open in the spec: no proof can see its value. -/

namespace Sys2Proof

namespace Config

/-- `ADDR_BITS` (R7, D3). DESIGN CHOICE, safe: the spec leaves it open with default 64, and the model is
the instance with the default (log 1). -/
abbrev addrBits : Nat := 64

/-- `LEN_BITS` (R7, D4): the spec takes 64 (log 2). -/
abbrev lenBits : Nat := 64

end Config

/-- A byte address of the input buffer space (R24, R40), of `addrBits` bits. -/
abbrev Addr := BitVec 64

/-- A length, or a count of blocks (R25, R36), of `lenBits` bits. -/
abbrev Len := BitVec 64

/-- The constant record `CONST` (R8): 40 words. -/
structure Consts where
  /-- `PRIME32_1` to `PRIME32_4`, at index 0 to 3 -/
  prime : Vector Word 4
  m1 : Word
  m2 : Word
  m3 : Word
  m4 : Word
  /-- `ACC_INIT[0..31]` -/
  accInit : Vector Word 32
deriving DecidableEq, Repr, Inhabited

namespace Config

/-- The configured values of `CONST` (R8, D5): open, no source gives a digit of them (log 3). -/
opaque consts : Consts

/-- `SHORT32` in the mode without `seed2` (R9, R165): a function of `M1`, `M2` and `x` alone, its steps
open (D6, log 4). Arguments in that order. -/
opaque short32Plain : Word → Word → Word → Word

/-- `SHORT32` in the mode with `seed2` (R9, R165): a function of `M1`, `M2`, `x` and `seed2`, its steps
open (D6, log 4). Arguments in that order. -/
opaque short32Keyed : Word → Word → Word → Word → Word

/-- The values the spec calls unspecified (R29, R41, R104) or does not state (log 31), one for each number of
`State.draws` (log 5). -/
opaque freeValue : Nat → BitVec 64

/-- A free value for a 32-bit register: the low half of `freeValue`. -/
def freeWord (n : Nat) : Word := (freeValue n).setWidth 32

end Config

end Sys2Proof
end

