-- ==== Sys2Proof/Syntax.lean ====
section
/-! DEFINITION. The vocabulary of HG32 and its operations: one constructor of `Instr` for each row of
spec/opcode_table.json (spec/30_encoding.md), and the words an operation is presented in. -/

namespace Sys2Proof

/-- The intensity selector (R85). -/
inductive Intensity where
  | inner
  | full
deriving DecidableEq, Repr

/-- The length classes (R81). -/
inductive LengthClass where
  | tiny0
  | tiny14
  | short
  | medium
  | long
deriving DecidableEq, Repr

/-- The 14 values of the sequencer register `PHASE` (R31, R87). -/
inductive Phase where
  | idle
  | dispatch
  | tiny0
  | tiny14
  | smInit
  | shortAbsorb
  | medRound
  | medTail
  | smFinal
  | longInit
  | longRound
  | longTail
  | longMerge
  | done
deriving DecidableEq, Repr

/-- The six host interface registers (R23). -/
inductive HostReg where
  | ptr
  | len
  | seed
  | ctrl
  | status
  | digest
deriving DecidableEq, Repr

/-- The primitive functions of the FUNC rows of spec/opcode_table.json (R52, R53, R142, R160 to R165).
An intensity or `withSeed2` selector is a bit of the word, not part of the name. -/
inductive FuncName where
  | sxA
  | sxB
  | mul16
  | avalanche32
  | mix32
  | short32
  | memRead1
  | memRead4
  | round
deriving DecidableEq, Repr

/-- The operations of spec/opcode_table.json. The CMD rows and HASH32 are the command of R80 with its
operands, START is the write of 1 to `CTRL.START` with the reserved bits 31:1 of the written word, the
PHASE rows are the sequencer operations, which have no operand fields (R21, R87), and the FUNC rows are
the primitives with their arguments (R160 to R165). -/
inductive Instr where
  | hash32Tiny0 (ptr : Addr) (seed : Word)
  | hash32Tiny14Len1to3 (ptr : Addr) (len : Len) (seed : Word)
  | hash32Tiny14Len4 (ptr : Addr) (seed : Word)
  | hash32ShortLen5to15 (ptr : Addr) (len : Len) (seed : Word)
  | hash32ShortLen16 (ptr : Addr) (seed : Word)
  | hash32Medium (ptr : Addr) (len : Len) (seed : Word)
  | hash32Long (ptr : Addr) (len : Len) (seed : Word)
  | hash32 (ptr : Addr) (len : Len) (seed : Word)
  | start (reserved : BitVec 31)
  | idle
  | dispatch
  | tiny0
  | tiny14
  | smInit
  | shortAbsorb
  | medRound
  | medTail
  | smFinal
  | longInit
  | longRound
  | longTail
  | longMerge
  | done
  | sxA (x : Word)
  | sxB (x : Word)
  | mul16 (x m : Word)
  | avalanche32Inner (x : Word)
  | avalanche32Full (x : Word)
  | mix32Inner (h x : Word)
  | mix32Full (h x : Word)
  | short32NoSeed2 (x seed2 : Word)
  | short32Seed2 (x seed2 : Word)
  | memRead1 (addr : Addr)
  | memRead4 (addr : Addr)
  | round (base : Len) (intensity : Intensity)
deriving DecidableEq, Repr

/-- The five formats of spec/30_encoding.md. -/
inductive Format where
  | cmd
  | cmdAny
  | hostWrite
  | phase
  | func
deriving DecidableEq, Repr

/-- The bits an operation is read from, in the format they stand in. The formats' words overlap (masks of
zero), so a word is read in the format of the place it comes from: a command word (R80), the word written
to `CTRL` (R27), the code in `PHASE` (R87), or a function's name and word. The 96-bit word of a function
is the model's (DESIGN CHOICE, log 18): bit 0 the selector, bits 31:1 zero, then two operand words. -/
inductive RawWord where
  | cmd (w : BitVec 160)
  | cmdAny (w : BitVec 160)
  | ctrl (w : BitVec 32)
  | phase (code : BitVec 4)
  | func (f : FuncName) (w : BitVec 96)
deriving DecidableEq, Repr

/-- The format a word stands in. -/
def RawWord.format : RawWord → Format
  | .cmd _ => .cmd
  | .cmdAny _ => .cmdAny
  | .ctrl _ => .hostWrite
  | .phase _ => .phase
  | .func _ _ => .func

/-- The format of an operation's row in spec/opcode_table.json. -/
def Instr.format : Instr → Format
  | .hash32Tiny0 _ _ => .cmd
  | .hash32Tiny14Len1to3 _ _ _ => .cmd
  | .hash32Tiny14Len4 _ _ => .cmd
  | .hash32ShortLen5to15 _ _ _ => .cmd
  | .hash32ShortLen16 _ _ => .cmd
  | .hash32Medium _ _ _ => .cmd
  | .hash32Long _ _ _ => .cmd
  | .hash32 _ _ _ => .cmdAny
  | .start _ => .hostWrite
  | .idle => .phase
  | .dispatch => .phase
  | .tiny0 => .phase
  | .tiny14 => .phase
  | .smInit => .phase
  | .shortAbsorb => .phase
  | .medRound => .phase
  | .medTail => .phase
  | .smFinal => .phase
  | .longInit => .phase
  | .longRound => .phase
  | .longTail => .phase
  | .longMerge => .phase
  | .done => .phase
  | .sxA _ => .func
  | .sxB _ => .func
  | .mul16 _ _ => .func
  | .avalanche32Inner _ => .func
  | .avalanche32Full _ => .func
  | .mix32Inner _ _ => .func
  | .mix32Full _ _ => .func
  | .short32NoSeed2 _ _ => .func
  | .short32Seed2 _ _ => .func
  | .memRead1 _ => .func
  | .memRead4 _ => .func
  | .round _ _ => .func

end Sys2Proof
end

