-- ==== Sys2Proof/WellFormed.lean ====
section
/-! DEFINITION. Well-formed operations: a CMD row with a length operand holds a length the row catches
(spec/30_encoding.md R81, R82). Every other operand is unconstrained (R88). -/

namespace Sys2Proof

/-- The length operand lies in the row's range of R82. -/
def Instr.wellFormed : Instr → Bool
  | .hash32Tiny14Len1to3 _ len _ => decide (1 ≤ len.toNat ∧ len.toNat ≤ 3)
  | .hash32ShortLen5to15 _ len _ => decide (5 ≤ len.toNat ∧ len.toNat ≤ 15)
  | .hash32Medium _ len _ => decide (17 ≤ len.toNat ∧ len.toNat ≤ 127)
  | .hash32Long _ len _ => decide (128 ≤ len.toNat)
  | .hash32Tiny0 _ _ => true
  | .hash32Tiny14Len4 _ _ => true
  | .hash32ShortLen16 _ _ => true
  | .hash32 _ _ _ => true
  | .start _ => true
  | .idle => true
  | .dispatch => true
  | .tiny0 => true
  | .tiny14 => true
  | .smInit => true
  | .shortAbsorb => true
  | .medRound => true
  | .medTail => true
  | .smFinal => true
  | .longInit => true
  | .longRound => true
  | .longTail => true
  | .longMerge => true
  | .done => true
  | .sxA _ => true
  | .sxB _ => true
  | .mul16 _ _ => true
  | .avalanche32Inner _ => true
  | .avalanche32Full _ => true
  | .mix32Inner _ _ => true
  | .mix32Full _ _ => true
  | .short32NoSeed2 _ _ => true
  | .short32Seed2 _ _ => true
  | .memRead1 _ => true
  | .memRead4 _ => true
  | .round _ _ => true

end Sys2Proof
end

