-- ==== Sys2Proof/Decode.lean ====
section
/-! DEFINITION. The decoder and the encoder of the five word formats (spec/30_encoding.md, the masks,
matches and codes of spec/opcode_table.json). -/

namespace Sys2Proof

/-- Why a word names no operation. -/
inductive DecodeError where
  /-- `PHASE` codes 14 and 15 (R88): no operation has them. -/
  | unusedPhaseCode (code : BitVec 4)
  /-- A word written to `CTRL` with bit 0 clear is no START (R27). -/
  | startBitClear
  /-- A function word with a bit set that neither the selector nor an operand of that function uses. -/
  | strayBits
deriving DecidableEq, Repr

/-- The 4-bit code of `PHASE` (R87). -/
def Phase.code : Phase → BitVec 4
  | .idle => 0
  | .dispatch => 1
  | .tiny0 => 2
  | .tiny14 => 3
  | .smInit => 4
  | .shortAbsorb => 5
  | .medRound => 6
  | .medTail => 7
  | .smFinal => 8
  | .longInit => 9
  | .longRound => 10
  | .longTail => 11
  | .longMerge => 12
  | .done => 13

/-- The value of `PHASE` that a 4-bit code stands for, none for the unused codes 14 and 15 (R87, R88). -/
def Phase.ofCode (c : BitVec 4) : Option Phase :=
  match c.toNat with
  | 0 => some .idle
  | 1 => some .dispatch
  | 2 => some .tiny0
  | 3 => some .tiny14
  | 4 => some .smInit
  | 5 => some .shortAbsorb
  | 6 => some .medRound
  | 7 => some .medTail
  | 8 => some .smFinal
  | 9 => some .longInit
  | 10 => some .longRound
  | 11 => some .longTail
  | 12 => some .longMerge
  | 13 => some .done
  | _ => none

/-- The sequencer operation a value of `PHASE` names (R31). -/
def Phase.operation : Phase → Instr
  | .idle => .idle
  | .dispatch => .dispatch
  | .tiny0 => .tiny0
  | .tiny14 => .tiny14
  | .smInit => .smInit
  | .shortAbsorb => .shortAbsorb
  | .medRound => .medRound
  | .medTail => .medTail
  | .smFinal => .smFinal
  | .longInit => .longInit
  | .longRound => .longRound
  | .longTail => .longTail
  | .longMerge => .longMerge
  | .done => .done

/-- The numbers of the interface registers (R23). -/
def HostReg.number : HostReg → Nat
  | .ptr => 0
  | .len => 1
  | .seed => 2
  | .ctrl => 3
  | .status => 4
  | .digest => 5

/-- The intensity bit (R85). -/
def Intensity.bit : Intensity → Bool
  | .inner => false
  | .full => true

/-- The intensity a selector bit stands for (R85). -/
def Intensity.ofBit (b : Bool) : Intensity := if b then .full else .inner

/-- The class codes (R81). -/
def LengthClass.code : LengthClass → Nat
  | .tiny0 => 0
  | .tiny14 => 1
  | .short => 2
  | .medium => 3
  | .long => 4

/-- The CMD rows, tried in the order of R82: the first row whose test `(len & mask) = match` holds. -/
def decodeCommand (ptr : Addr) (len : Len) (seed : Word) : Instr :=
  if len &&& 0xFFFFFFFFFFFFFFFF#64 = 0x0000000000000000#64 then .hash32Tiny0 ptr seed
  else if len &&& 0xFFFFFFFFFFFFFFFC#64 = 0x0000000000000000#64 then .hash32Tiny14Len1to3 ptr len seed
  else if len &&& 0xFFFFFFFFFFFFFFFF#64 = 0x0000000000000004#64 then .hash32Tiny14Len4 ptr seed
  else if len &&& 0xFFFFFFFFFFFFFFF0#64 = 0x0000000000000000#64 then .hash32ShortLen5to15 ptr len seed
  else if len &&& 0xFFFFFFFFFFFFFFFF#64 = 0x0000000000000010#64 then .hash32ShortLen16 ptr seed
  else if len &&& 0xFFFFFFFFFFFFFF80#64 = 0x0000000000000000#64 then .hash32Medium ptr len seed
  else .hash32Long ptr len seed

/-- The operand fields of the command word (R80): `ptr` in bits 63:0, `len` in 127:64, `seed` in 159:128. -/
def commandPtr (w : BitVec 160) : Addr := w.extractLsb' 0 64

@[inherit_doc commandPtr]
def commandLen (w : BitVec 160) : Len := w.extractLsb' 64 64

@[inherit_doc commandPtr]
def commandSeed (w : BitVec 160) : Word := w.extractLsb' 128 32

/-- The command word of R80: `seed : len : ptr`. -/
def commandWord (ptr : Addr) (len : Len) (seed : Word) : BitVec 160 := (seed ++ len ++ ptr : BitVec 160)

/-- A function word (log 18): selector bit, then two operand words. -/
def funcWord (sel : Bool) (op1 op2 : Word) : BitVec 96 :=
  (op2 ++ op1 ++ (BitVec.ofBool sel).setWidth 32 : BitVec 96)

/-- A function word whose operand is one 64-bit value (log 18). -/
def funcWordLong (sel : Bool) (op : BitVec 64) : BitVec 96 :=
  (op ++ (BitVec.ofBool sel).setWidth 32 : BitVec 96)

/-- Reads a function word (log 18). The selector is bit 0: the intensity (R85) or `withSeed2` (R86). -/
def decodeFunc (f : FuncName) (w : BitVec 96) : Except DecodeError Instr :=
  let sel := w.extractLsb' 0 32
  let op1 := w.extractLsb' 32 32
  let op2 := w.extractLsb' 64 32
  let op := w.extractLsb' 32 64
  let bit := w.getLsbD 0
  if sel ≠ 0 ∧ sel ≠ 1 then .error .strayBits
  else match f with
    | .sxA => if bit = false ∧ op2 = 0 then .ok (.sxA op1) else .error .strayBits
    | .sxB => if bit = false ∧ op2 = 0 then .ok (.sxB op1) else .error .strayBits
    | .mul16 => if bit = false then .ok (.mul16 op1 op2) else .error .strayBits
    | .avalanche32 =>
      if op2 = 0 then .ok (if bit then .avalanche32Full op1 else .avalanche32Inner op1)
      else .error .strayBits
    | .mix32 => .ok (if bit then .mix32Full op1 op2 else .mix32Inner op1 op2)
    | .short32 => .ok (if bit then .short32Seed2 op1 op2 else .short32NoSeed2 op1 op2)
    | .memRead1 => if bit = false then .ok (.memRead1 op) else .error .strayBits
    | .memRead4 => if bit = false then .ok (.memRead4 op) else .error .strayBits
    | .round => .ok (.round op (Intensity.ofBit bit))

/-- The operation a word stands for, or why it stands for none. Total on every word of every format. -/
def decode : RawWord → Except DecodeError Instr
  | .cmd w => .ok (decodeCommand (commandPtr w) (commandLen w) (commandSeed w))
  | .cmdAny w => .ok (.hash32 (commandPtr w) (commandLen w) (commandSeed w))
  | .ctrl w => if w.getLsbD 0 then .ok (.start (w.extractLsb' 1 31)) else .error .startBitClear
  | .phase c =>
    match Phase.ofCode c with
    | some p => .ok p.operation
    | none => .error (.unusedPhaseCode c)
  | .func f w => decodeFunc f w

/-- The word of an operation, from the same encodings. -/
def encode : Instr → RawWord
  | .hash32Tiny0 ptr seed => .cmd (commandWord ptr 0 seed)
  | .hash32Tiny14Len1to3 ptr len seed => .cmd (commandWord ptr len seed)
  | .hash32Tiny14Len4 ptr seed => .cmd (commandWord ptr 4 seed)
  | .hash32ShortLen5to15 ptr len seed => .cmd (commandWord ptr len seed)
  | .hash32ShortLen16 ptr seed => .cmd (commandWord ptr 16 seed)
  | .hash32Medium ptr len seed => .cmd (commandWord ptr len seed)
  | .hash32Long ptr len seed => .cmd (commandWord ptr len seed)
  | .hash32 ptr len seed => .cmdAny (commandWord ptr len seed)
  | .start reserved => .ctrl (reserved ++ 1#1)
  | .idle => .phase 0
  | .dispatch => .phase 1
  | .tiny0 => .phase 2
  | .tiny14 => .phase 3
  | .smInit => .phase 4
  | .shortAbsorb => .phase 5
  | .medRound => .phase 6
  | .medTail => .phase 7
  | .smFinal => .phase 8
  | .longInit => .phase 9
  | .longRound => .phase 10
  | .longTail => .phase 11
  | .longMerge => .phase 12
  | .done => .phase 13
  | .sxA x => .func .sxA (funcWord false x 0)
  | .sxB x => .func .sxB (funcWord false x 0)
  | .mul16 x m => .func .mul16 (funcWord false x m)
  | .avalanche32Inner x => .func .avalanche32 (funcWord false x 0)
  | .avalanche32Full x => .func .avalanche32 (funcWord true x 0)
  | .mix32Inner h x => .func .mix32 (funcWord false h x)
  | .mix32Full h x => .func .mix32 (funcWord true h x)
  | .short32NoSeed2 x seed2 => .func .short32 (funcWord false x seed2)
  | .short32Seed2 x seed2 => .func .short32 (funcWord true x seed2)
  | .memRead1 addr => .func .memRead1 (funcWordLong false addr)
  | .memRead4 addr => .func .memRead4 (funcWordLong false addr)
  | .round base intensity => .func .round (funcWordLong intensity.bit base)

/-- The word of a row of spec/opcode_table.json from its bits alone. A table word does not say its format
and the formats overlap, so the number of bits decides (DESIGN CHOICE, log 20): up to 16 bits a code of
`PHASE` (mask 0xF), up to 32 bits a write to `CTRL`, more bits a command word. A table word cannot name a
function or the row HASH32. -/
def tableWord (nbits w : Nat) : RawWord :=
  if nbits ≤ 16 then .phase (BitVec.ofNat 4 w)
  else if nbits ≤ 32 then .ctrl (BitVec.ofNat 32 w)
  else .cmd (BitVec.ofNat 160 w)

/-- The operation the decoder reads from a table word. -/
def decodeTableWord (nbits w : Nat) : Option Instr :=
  match decode (tableWord nbits w) with
  | .ok i => some i
  | .error _ => none

end Sys2Proof
end

