-- ==== Sys2Proof/Machine/State.lean ====
section
/-! DEFINITION. The state of HG32 (spec/10_state.md, spec/20_memory.md R59), the reasons a step can stop,
and the state after reset (R41, R200). -/

namespace Sys2Proof.Machine

open Sys2Proof

/-- Why the core is stuck: the operation of `PHASE` has no step (R60). No fault is recorded anywhere, the
block has no fault state (R180). -/
inductive Fault where
  /-- Raised by a read of a byte that the platform does not make readable (R60, R181, U1): the read has
  no step. Safe: the spec asks for exactly this. -/
  | unreadable (addr : Nat)
deriving DecidableEq, Repr

/-- Why a turn has no meaning. -/
inductive Refusal where
  /-- Answered by `exec` alone, for an operation without a meaning. Safe. -/
  | notModelled (mnemonic : String)
  /-- A host write to `PTR`, `LEN`, `SEED` or `CTRL` while `BUSY` (R30, R206, U5): no move of the host.
  Safe in the model, a host assumption (log 11). -/
  | hostWriteWhileBusy
  /-- A write to a byte of the buffer while `BUSY`, or making one unreadable (R205, U2): no move of any
  agent. Safe in the model, a host assumption (log 15). -/
  | bufferWriteWhileBusy
  /-- START with `PTR + LEN > 2^ADDR_BITS` (R51, U3): the START is not accepted. Safe. -/
  | bufferWraps
  /-- START with an operand register that the host has not written since reset (R202, U7): the START is
  not accepted. Safe. -/
  | operandUnwritten
  /-- The round applied on the model's function port while `BUSY`, when ACC is the core's (log 17): not a
  move of any agent. Safe. -/
  | roundWhileBusy
  /-- A CMD row applied to a length of another class; no word decodes to such a term (log 30). Safe. -/
  | lengthOutsideRow
  /-- A word that stands for no operation (R88). Safe. -/
  | undecodable (e : DecodeError)
deriving DecidableEq, Repr

/-- The input buffer space (R40, R59): the readable bytes, by address. Canonical form: addresses strictly
rising. An address that is not listed is not readable, so no entry equals what an unlisted address
reads as (log 8). -/
abbrev Memory := List Host.Cell

/-- What happens at one turn (log 9): the core takes its step, or an agent outside does something. -/
inductive Turn where
  /-- The core executes the operation of `PHASE`, if it has a step. -/
  | core
  /-- The host runs the whole program of R90 for a command word (a CMD row), in one turn (R106). -/
  | command (w : BitVec 160)
  /-- The same, taken as the row HASH32 (R101). -/
  | commandAny (w : BitVec 160)
  /-- The host writes an interface register (R23); a register narrower than the value takes its low bits. -/
  | write (r : HostReg) (v : BitVec 64)
  /-- The host reads an interface register; the value lands in `result`. -/
  | read (r : HostReg)
  /-- A function is applied on the model's own function port; the value lands in `result` (log 17). -/
  | apply (f : FuncName) (w : BitVec 96)
  /-- An agent of the platform writes a byte of the buffer space and makes it readable (R62, R205). -/
  | store (addr : Addr) (b : Byte)
  /-- The platform makes a byte unreadable (R59, R205). -/
  | release (addr : Addr)
  /-- Reset (R200, R201). -/
  | reset
deriving DecidableEq, Repr

/-- The state. Each field is listed in INVENTORY.md with the rule that names it. -/
structure State where
  /-- `PTR` (R24) -/
  ptr : Addr
  /-- `LEN` (R25) -/
  len : Len
  /-- `SEED` (R26) -/
  seed : Word
  /-- Has the host written `PTR` since reset (R202, U7)? -/
  ptrWritten : Bool
  /-- Has the host written `LEN` since reset (R202, U7)? -/
  lenWritten : Bool
  /-- Has the host written `SEED` since reset (R202, U7)? -/
  seedWritten : Bool
  /-- `DIGEST` (R29) -/
  digest : Word
  /-- `PHASE` (R31) -/
  phase : Phase
  /-- `X` (R32) -/
  x : Word
  /-- `A[0..3]` (R33) -/
  a : Vector Word 4
  /-- `ACC[0..31]` (R34) -/
  acc : Vector Word 32
  /-- `S` (R35) -/
  sum : Word
  /-- `K` (R36) -/
  k : Len
  /-- `NB` (R36) -/
  nb : Len
  /-- `CONST` (R8, R37) -/
  consts : Consts
  /-- `MEM` (R59) -/
  mem : Memory
  /-- The model's own: the turns to come; when none is left it is the core's turn (log 9). -/
  turns : List Turn
  /-- The model's own: what the last read, command or function answered (log 17). -/
  result : BitVec 64
  /-- The model's own: how many free values were drawn (log 5). -/
  draws : Nat
deriving DecidableEq, Repr

/-- The machine right after reset (R41, R200): `PHASE = IDLE`, `CONST` as configured, no operand written,
nothing readable. The spec gives the other registers no value; 0 is the model's (DESIGN CHOICE, unsafe,
log 6). -/
def State.reset : State where
  ptr := 0
  len := 0
  seed := 0
  ptrWritten := false
  lenWritten := false
  seedWritten := false
  digest := 0
  phase := .idle
  x := 0
  a := Vector.ofFn fun _ => 0
  acc := Vector.ofFn fun _ => 0
  sum := 0
  k := 0
  nb := 0
  consts := Config.consts
  mem := []
  turns := []
  result := 0
  draws := 0

end Sys2Proof.Machine
end

