-- ==== Sys2Proof/Machine/Flags.lean ====
section
/-! DEFINITION. The status bits. HG32 has no arithmetic flags (spec/10_state.md R22): `BUSY` and `DONE`
are a view of `PHASE` (R28). -/

namespace Sys2Proof.Machine

open Sys2Proof

/-- `BUSY` is 1 exactly when `PHASE` is neither `IDLE` nor `DONE` (R28). -/
def phaseBusy (p : Phase) : Bool := p ≠ .idle && p ≠ .done

/-- `STATUS.BUSY` (R28). -/
def State.busy (s : State) : Bool := phaseBusy s.phase

/-- `STATUS.DONE` (R28). -/
def State.isDone (s : State) : Bool := s.phase = .done

/-- `STATUS` (R28): bit 0 `BUSY`, bit 1 `DONE`, bits 31:2 zero. -/
def State.status (s : State) : Word :=
  (BitVec.ofBool s.isDone ++ BitVec.ofBool s.busy : BitVec 2).setWidth 32

end Sys2Proof.Machine
end

