-- ==== Sys2Proof/Machine/Mix.lean ====
section
/-! DEFINITION. The shared bit-mixing primitives (spec/45_primitives.md) and their lane-wise use
(spec/44_long.md R142, R146). -/

namespace Sys2Proof.Machine

open Sys2Proof

/-- `sx_a` (R160): all three occurrences of `x` are the argument. -/
def sxA (x : Word) : Word := x ^^^ (x >>> 8) ^^^ (x >>> 21)

/-- `sx_b` (R161): the left shift drops what leaves bit 31. -/
def sxB (x : Word) : Word := x ^^^ (x <<< 12) ^^^ (x >>> 7)

/-- The low 16-bit lane, `x[15:0]` (R11). -/
def lowHalf (x : Word) : Half := x.extractLsb' 0 16

/-- The high 16-bit lane, `x[31:16]` (R11). -/
def highHalf (x : Word) : Half := x.extractLsb' 16 16

/-- `mul16` (R162): two 16-bit products, each kept modulo 2^16. -/
def mul16 (x m : Word) : Word :=
  (highHalf x * highHalf m ++ lowHalf x * lowHalf m : BitVec 32)

/-- `avalanche32` under `INNER` (R163). -/
def avalancheInner (c : Consts) (x : Word) : Word := mul16 (sxB (mul16 (sxA x) c.m3)) c.m4

/-- `avalanche32` (R163): `FULL` closes with one more `sx_a`. -/
def avalanche32 (c : Consts) (x : Word) : Intensity → Word
  | .inner => avalancheInner c x
  | .full => sxA (avalancheInner c x)

/-- `mix32` (R164). -/
def mix32 (c : Consts) (h x : Word) (i : Intensity) : Word := avalanche32 c (h ^^^ x) i

/-- `SHORT32` (R9, R165): open; `seed2` has no effect in the mode without it (log 4). -/
def short32 (c : Consts) (x seed2 : Word) (withSeed2 : Bool) : Word :=
  if withSeed2 then Config.short32Keyed c.m1 c.m2 x seed2 else Config.short32Plain c.m1 c.m2 x

/-- One `mix32` a lane: word `i` goes to accumulator `i` (R85, R122, R142). -/
def mixLanes {n : Nat} (c : Consts) (acc w : Vector Word n) (i : Intensity) : Vector Word n :=
  Vector.ofFn fun j => mix32 c acc[j] w[j] i

/-- The lanes updated one at a time in the order of a list (R146: any order is allowed). -/
def mixLanesInOrder {n : Nat} (c : Consts) (w : Vector Word n) (i : Intensity) :
    List (Fin n) → Vector Word n → Vector Word n
  | [], acc => acc
  | j :: rest, acc => mixLanesInOrder c w i rest (acc.set j (mix32 c acc[j] w[j] i))

/-- Seeding by addition (R120, R140): the seed is added to every word of a table. -/
def seedLanes {n : Nat} (table : Vector Word n) (seed : Word) : Vector Word n :=
  Vector.ofFn fun j => table[j] + seed

/-- The sum over the lanes of `acc[i] ^ table[i]`, modulo 2^32 (R123, R145). -/
def unseededSum {n : Nat} (acc table : Vector Word n) : Word :=
  (Vector.ofFn fun j : Fin n => acc[j] ^^^ table[j]).toList.sum

end Sys2Proof.Machine
end

