-- ==== Sys2Proof/Machine/Operands.lean ====
section
/-! DEFINITION. Operands: the values derived from `LEN` (spec/30_encoding.md R83), the length class
(R81), the read offsets of each operation (spec/20_memory.md R57) and the word a tiny input is packed into
(R84). Lengths and offsets are natural numbers (R11), and the spec writes `len - c` only where `c ≤ len`: elsewhere
the offset is one the spec does not state (log 31). -/

namespace Sys2Proof.Machine

open Sys2Proof

/-- `lo32(len)` (R83). -/
def lo32 (len : Len) : Word := len.setWidth 32

/-- `len >> 32` as a word (R83, R145). -/
def carry32 (len : Len) : Word := (len >>> 32).setWidth 32

/-- The length class (R81, R100). -/
def lengthClass (len : Len) : LengthClass :=
  if len.toNat = 0 then .tiny0
  else if len.toNat ≤ 4 then .tiny14
  else if len.toNat ≤ 16 then .short
  else if len.toNat ≤ 127 then .medium
  else .long

/-- `NB` of the medium path, `(len - 1) / 16` (R130). -/
def mediumBlocks (len : Len) : Len := (len - 1) / 16

/-- `NB` of the long path, `(len - 1) / 128` (R141). -/
def longBlocks (len : Len) : Len := (len - 1) / 128

/-- `q = (len >> 3) << 2` (R83). -/
def shortStride (len : Len) : Nat := len.toNat / 8 * 4

/-- A byte offset into the input buffer, or none where the spec states no offset (DESIGN CHOICE, log 31). -/
abbrev Offset := Option Nat

/-- `len - c`, which the spec writes only where `c ≤ len` (R11, R166). -/
def lenMinus (len : Len) (c : Nat) : Offset := if c ≤ len.toNat then some (len.toNat - c) else none

/-- The offset of word `i` of the short path (R121). -/
def shortOffset (len : Len) : Nat → Offset
  | 0 => some 0
  | 1 => some (shortStride len)
  | 2 => lenMinus len 4
  | _ => lenMinus len (4 + shortStride len)

/-- The offset of word `i` of a block at byte offset `base` (R85). -/
def blockOffset (base : Offset) (i : Nat) : Offset := base.map (· + 4 * i)

/-- The word of a tiny input (R84, R111) from the bytes at `0`, `len-1`, `len>>1` and `len>>2`. -/
def tinyWord (first last mid1 mid2 : Byte) : Word :=
  let t := first.setWidth 32 ||| (last.setWidth 32 <<< 8)
  (t <<< 16) ||| mid1.setWidth 32 ||| (mid2.setWidth 32 <<< 8)

end Sys2Proof.Machine
end

