-- ==== Sys2Proof/Machine/Ops.lean ====
section
/-! DEFINITION. The named operations over memory and registers. HG32 takes no exception and returns from
none (spec/60_exceptions.md R180, R185, R186), so there is no such operation here. -/

namespace Sys2Proof.Machine

open Sys2Proof

/-! ### The input buffer space (spec/20_memory.md) -/

/-- The canonical form: addresses strictly rising and inside the address space. -/
abbrev Memory.wf (m : Memory) : Prop :=
  (m.map Prod.fst).Pairwise (· < ·) ∧ ∀ c ∈ m, c.1 < 2 ^ Config.addrBits

/-- What an address reads as (R59, R60): its byte, or none where it is not readable. An address at or
above `2^ADDR_BITS` does not exist (R51). -/
def Memory.byteAt (m : Memory) (addr : Nat) : Option Byte :=
  if addr < 2 ^ Config.addrBits then List.lookup addr m else none

/-- The byte `b` written at `addr`, which is readable from then on. -/
def Memory.store : Memory → Nat → Byte → Memory
  | [], addr, b => [(addr, b)]
  | (a, v) :: rest, addr, b =>
    if addr < a then (addr, b) :: (a, v) :: rest
    else if addr = a then (addr, b) :: rest
    else (a, v) :: Memory.store rest addr b

/-- `addr` made unreadable. -/
def Memory.release (m : Memory) (addr : Nat) : Memory := m.filter fun c => c.1 ≠ addr

/-- `MemRead(addr, 1)` (R52), stuck where the byte is not readable (R60). -/
def memRead1 (m : Memory) (addr : Nat) : Except Fault Byte :=
  match m.byteAt addr with
  | some b => .ok b
  | none => .error (.unreadable addr)

/-- Four bytes as a word, the one at the lowest address least significant (R50, R53, R54). -/
def littleEndian (b0 b1 b2 b3 : Byte) : Word :=
  b0.setWidth 32 ||| (b1.setWidth 32 <<< 8) ||| (b2.setWidth 32 <<< 16) ||| (b3.setWidth 32 <<< 24)

/-- `MemRead(addr, 4)` (R53): the four bytes, at any alignment (R55). -/
def memRead4 (m : Memory) (addr : Nat) : Except Fault Word := do
  let b0 ← memRead1 m addr
  let b1 ← memRead1 m (addr + 1)
  let b2 ← memRead1 m (addr + 2)
  let b3 ← memRead1 m (addr + 3)
  .ok (littleEndian b0 b1 b2 b3)

/-- The input buffer of a command: where it lies and how long it is (R24, R25), in what memory; and the
number of the first free value for the reads whose offset the spec does not state (logs 5, 31). -/
structure Buffer where
  mem : Memory
  ptr : Addr
  len : Len
  draws : Nat

/-- The buffer of the state's operand registers. -/
def State.buffer (s : State) : Buffer := ⟨s.mem, s.ptr, s.len, s.draws⟩

/-- The effective address `PTR + off` (R51, R61). -/
def Buffer.addr (b : Buffer) (off : Nat) : Nat := b.ptr.toNat + off

/-- `B(off)` (R11, R52). The core compares no offset with `LEN` (R182); that it stays inside the buffer
(R51, R58) follows from the offsets of a command. -/
def Buffer.byte (b : Buffer) (off : Nat) : Except Fault Byte := memRead1 b.mem (b.addr off)

/-- `LE32(off)` (R11, R53), without a comparison with `LEN` (R182). -/
def Buffer.word (b : Buffer) (off : Nat) : Except Fault Word := memRead4 b.mem (b.addr off)

/-- Byte `j` of an operation's reads. Where the spec states no offset the byte is a free value (DESIGN
CHOICE, log 31). -/
def Buffer.byteAt (b : Buffer) (j : Nat) : Offset → Except Fault Byte
  | some off => b.byte off
  | none => .ok ((Config.freeWord (b.draws + j)).setWidth 8)

/-- Word `j` of an operation's reads. Where the spec states no offset the word is a free value (DESIGN
CHOICE, log 31). -/
def Buffer.wordAt (b : Buffer) (j : Nat) : Offset → Except Fault Word
  | some off => b.word off
  | none => .ok (Config.freeWord (b.draws + j))

/-- The words at `off 0`, …, `off (n-1)`, read in that order (the order is free, R62, log 27). -/
def Buffer.words (b : Buffer) : (n : Nat) → (Nat → Offset) → Except Fault (Vector Word n)
  | 0, _ => .ok #v[]
  | n + 1, off => do
    let ws ← b.words n off
    let w ← b.wordAt n (off n)
    .ok (ws.push w)

/-- A block of `n` words at byte offset `base` folded into `n` lanes (R85, R131, R132). -/
def Buffer.absorb {n : Nat} (b : Buffer) (c : Consts) (acc : Vector Word n) (base : Offset)
    (i : Intensity) : Except Fault (Vector Word n) := do
  let w ← b.words n (blockOffset base)
  .ok (mixLanes c acc w i)

/-- The round function (R142): the block of 32 words at `base` folded into `ACC`. -/
def Buffer.round (b : Buffer) (c : Consts) (acc : Vector Word 32) (base : Offset) (i : Intensity) :
    Except Fault (Vector Word 32) :=
  b.absorb c acc base i

/-- The packed word of a tiny input (R111). The last byte stands at `len - 1`, which the spec does not state
for `len = 0` (log 31). -/
def Buffer.packTiny (b : Buffer) : Except Fault Word := do
  let len := b.len.toNat
  let first ← b.byte 0
  let last ← b.byteAt 0 (lenMinus b.len 1)
  let mid1 ← b.byte (len / 2)
  let mid2 ← b.byte (len / 4)
  .ok (tinyWord first last mid1 mid2)

/-- An operation that reads memory: stuck where a read is, else it goes on with what was read. -/
def afterRead {α : Type} (r : Except Fault α) (k : α → Host.Outcome State Fault Refusal) :
    Host.Outcome State Fault Refusal :=
  match r with
  | .ok v => k v
  | .error f => .fault f

/-! ### Registers -/

/-- `PHASE <- p` (R11). -/
def State.setPhase (s : State) (p : Phase) : State := { s with phase := p }

/-- What a read, a command or a function answers (log 17). -/
def State.setResult (s : State) (v : BitVec 64) : State := { s with result := v }

/-- A read of a 64-bit register that the spec gives no value answers a free one (R41, DESIGN CHOICE,
logs 5 and 14). -/
def State.freeResult (s : State) : State :=
  { s with result := Config.freeValue s.draws, draws := s.draws + 1 }

/-- A read of a 32-bit register that the spec gives no value answers a free `u32` (R26, R29, R41, U6) with
zeros above it, as every read of a 32-bit register does (DESIGN CHOICE, logs 5, 14 and 25). -/
def State.freeResult32 (s : State) : State :=
  { s with result := (Config.freeWord s.draws).setWidth 64, draws := s.draws + 1 }

/-- The count of free values after an operation that took `n` of them where the spec does not state the
offset `off` (logs 5, 31). -/
def State.drew (s : State) (off : Offset) (n : Nat) : State :=
  { s with draws := if off.isNone then s.draws + n else s.draws }

/-- The host writes `PTR` (R24). -/
def State.writePtr (s : State) (v : Addr) : State := { s with ptr := v, ptrWritten := true }

/-- The host writes `LEN` (R25). -/
def State.writeLen (s : State) (v : Len) : State := { s with len := v, lenWritten := true }

/-- The host writes `SEED` (R26). -/
def State.writeSeed (s : State) (v : Word) : State := { s with seed := v, seedWritten := true }

/-- The working registers hold no promised value (R34, R104, U14): each gets a free value (log 16). -/
def State.discardWorking (s : State) : State :=
  { s with
    x := Config.freeWord s.draws
    a := Vector.ofFn fun i => Config.freeWord (s.draws + 1 + i.val)
    acc := Vector.ofFn fun i => Config.freeWord (s.draws + 5 + i.val)
    sum := Config.freeWord (s.draws + 37)
    k := Config.freeValue (s.draws + 38)
    nb := Config.freeValue (s.draws + 39)
    draws := s.draws + 40 }

/-- The end of a command (R29, R104): `DIGEST` is written in the same step that sets `PHASE <- DONE`. -/
def State.finish (s : State) (digest : Word) : State :=
  { s.discardWorking with digest := digest, phase := .done }

/-- The effect of an accepted START (R102): `PHASE <- DISPATCH`, and `DIGEST` becomes unspecified. -/
def State.accept (s : State) : State :=
  { s with phase := .dispatch, digest := Config.freeWord s.draws, draws := s.draws + 1 }

/-- Reset (R200, R201): `PHASE <- IDLE` from any value; every other register of the block becomes
unspecified (R41) and gets a free value; `CONST` and the platform's memory are untouched (log 7). -/
def State.resetEvent (s : State) : State :=
  { s.discardWorking with
    ptr := Config.freeValue (s.draws + 40)
    len := Config.freeValue (s.draws + 41)
    seed := Config.freeWord (s.draws + 42)
    digest := Config.freeWord (s.draws + 43)
    ptrWritten := false
    lenWritten := false
    seedWritten := false
    phase := .idle
    draws := s.draws + 44 }

/-! ### The host's side of the interface (spec/10_state.md section 4) -/

/-- Every operand register the command uses has been written since reset (R202). -/
def State.operandsWritten (s : State) : Bool :=
  s.lenWritten && s.seedWritten && (s.ptrWritten || s.len = 0)

/-- The buffer does not wrap at the top of the address space (R51, R204). -/
def State.bufferFits (s : State) : Bool :=
  s.ptr.toNat + s.len.toNat ≤ 2 ^ Config.addrBits

/-- Why a START is not accepted, if it is not (R30, R51, R102, R202). -/
def State.startRefusal (s : State) : Option Refusal :=
  if s.busy then some .hostWriteWhileBusy
  else if !s.operandsWritten then some .operandUnwritten
  else if !s.bufferFits then some .bufferWraps
  else none

/-- START (R102). -/
def State.startCommand (s : State) : Host.Outcome State Fault Refusal :=
  match s.startRefusal with
  | some r => .refused r
  | none => .next s.accept

/-- An address of the input buffer (R56). -/
def State.inBuffer (s : State) (addr : Addr) : Bool :=
  s.ptr.toNat ≤ addr.toNat && addr.toNat < s.ptr.toNat + s.len.toNat

/-- A host write that is no START (R23 to R30): to an operand register while not `BUSY`; a write to `CTRL`
with bit 0 clear does nothing (R27); a write to `STATUS` has no effect (R28), nor has one to `DIGEST`,
which is read only (log 25). -/
def State.hostWrite (s : State) (r : HostReg) (v : BitVec 64) : Host.Outcome State Fault Refusal :=
  match r with
  | .ptr => if s.busy then .refused .hostWriteWhileBusy else .next (s.writePtr v)
  | .len => if s.busy then .refused .hostWriteWhileBusy else .next (s.writeLen v)
  | .seed => if s.busy then .refused .hostWriteWhileBusy else .next (s.writeSeed (v.setWidth 32))
  | .ctrl => if s.busy then .refused .hostWriteWhileBusy else .next s
  | .status => .next s
  | .digest => .next s

/-- A host read (R23 to R29). `CTRL` reads 0. An operand register not written since reset (R41), and
`DIGEST` while `DONE` is 0 (R29, U6), read a free value of the register's width. -/
def State.hostRead (s : State) (r : HostReg) : State :=
  match r with
  | .ptr => if s.ptrWritten then s.setResult s.ptr else s.freeResult
  | .len => if s.lenWritten then s.setResult s.len else s.freeResult
  | .seed => if s.seedWritten then s.setResult (s.seed.setWidth 64) else s.freeResult32
  | .ctrl => s.setResult 0
  | .status => s.setResult (s.status.setWidth 64)
  | .digest => if s.isDone then s.setResult (s.digest.setWidth 64) else s.freeResult32

/-- A byte written by an agent of the platform: no move inside the buffer while `BUSY` (R205, U2). -/
def State.platformStore (s : State) (addr : Addr) (b : Byte) : Host.Outcome State Fault Refusal :=
  if s.busy && s.inBuffer addr then .refused .bufferWriteWhileBusy
  else .next { s with mem := s.mem.store addr.toNat b }

/-- A byte made unreadable: no move inside the buffer while `BUSY` (R205). -/
def State.platformRelease (s : State) (addr : Addr) : Host.Outcome State Fault Refusal :=
  if s.busy && s.inBuffer addr then .refused .bufferWriteWhileBusy
  else .next { s with mem := s.mem.release addr.toNat }

end Sys2Proof.Machine
end

