-- ==== Sys2Proof/Machine/Short.lean ====
section
/-! DEFINITION. The short-input mixer and the four-accumulator skeleton (spec/42_short.md): SM_INIT,
SHORT_ABSORB and SM_FINAL, and the short path as a function (R124). -/

namespace Sys2Proof.Machine

open Sys2Proof

/-- SM_INIT (R120). -/
def execSmInit (s : State) : Host.Outcome State Fault Refusal :=
  let t := { s with a := seedLanes s.consts.prime s.seed, k := 0 }
  if s.len.toNat ≤ 16 then .next (t.setPhase .shortAbsorb)
  else .next ({ t with nb := mediumBlocks s.len }.setPhase .medRound)

/-- SHORT_ABSORB (R121, R122). Below 4 bytes the words at `len - 4` and `len - 4 - q` are free values
(log 31). -/
def execShortAbsorb (s : State) : Host.Outcome State Fault Refusal :=
  afterRead (s.buffer.words 4 (shortOffset s.len)) fun w =>
    .next (({ s with a := mixLanes s.consts s.a w .full }.drew (lenMinus s.len 4) 4).setPhase .smFinal)

/-- The last mix of the short and medium paths (R123): the sum with `lo32(len) + seed`. -/
def shortMediumDigest (c : Consts) (sum : Word) (len : Len) (seed : Word) : Word :=
  mix32 c sum (lo32 len + seed) .full

/-- SM_FINAL (R123). -/
def execSmFinal (s : State) : Host.Outcome State Fault Refusal :=
  let t := { s with sum := unseededSum s.a s.consts.prime }
  .next (t.finish (shortMediumDigest t.consts t.sum t.len t.seed))

/-- The digest of 5 to 16 bytes (R101, R124). -/
def shortDigest (c : Consts) (b : Buffer) (seed : Word) : Except Fault Word := do
  let w ← b.words 4 (shortOffset b.len)
  let a := mixLanes c (seedLanes c.prime seed) w .full
  .ok (shortMediumDigest c (unseededSum a c.prime) b.len seed)

end Sys2Proof.Machine
end

