-- ==== Sys2Proof/Machine/Medium.lean ====
section
/-! DEFINITION. The medium-input mixer (spec/43_medium.md): MED_ROUND and MED_TAIL, and the medium path as
a function (R133). -/

namespace Sys2Proof.Machine

open Sys2Proof

/-- Was block `K` the last full one (R131, R143)? `K` before the increment; counted as numbers (log 23). -/
def State.lastBlock (s : State) : Bool := s.k.toNat + 1 = s.nb.toNat

/-- MED_ROUND (R131): full block number `K`, `INNER`. -/
def execMedRound (s : State) : Host.Outcome State Fault Refusal :=
  afterRead (s.buffer.absorb s.consts s.a (some (16 * s.k.toNat)) .inner) fun a =>
    .next ({ s with a := a, k := s.k + 1 }.setPhase (if s.lastBlock then .medTail else .medRound))

/-- MED_TAIL (R132): the last 16 bytes, `FULL`. Below 16 bytes the words are free values (log 31). -/
def execMedTail (s : State) : Host.Outcome State Fault Refusal :=
  afterRead (s.buffer.absorb s.consts s.a (lenMinus s.len 16) .full) fun a =>
    .next (({ s with a := a }.drew (lenMinus s.len 16) 4).setPhase .smFinal)

/-- `r` full blocks, from block number `k` on (R133). -/
def mediumRounds (c : Consts) (b : Buffer) (k : Nat) : Nat → Vector Word 4 → Except Fault (Vector Word 4)
  | 0, a => .ok a
  | r + 1, a => do
    let a' ← b.absorb c a (some (16 * k)) .inner
    mediumRounds c b (k + 1) r a'

/-- The digest of 17 to 127 bytes (R101, R133). -/
def mediumDigest (c : Consts) (b : Buffer) (seed : Word) : Except Fault Word := do
  let a ← mediumRounds c b 0 (mediumBlocks b.len).toNat (seedLanes c.prime seed)
  let a' ← b.absorb c a (lenMinus b.len 16) .full
  .ok (shortMediumDigest c (unseededSum a' c.prime) b.len seed)

end Sys2Proof.Machine
end

