-- ==== Sys2Proof/Machine/Long.lean ====
section
/-! DEFINITION. The long-input accumulator (spec/44_long.md): LONG_INIT, LONG_ROUND, LONG_TAIL and
LONG_MERGE, and the long path as a function (R147). -/

namespace Sys2Proof.Machine

open Sys2Proof

/-- `LEN - 1` (R141). The spec does not state it for `LEN = 0` (R11, R166): there it is a free value (DESIGN
CHOICE, log 31). -/
def State.lenMinusOne (s : State) : Len := if s.len = 0 then Config.freeValue s.draws else s.len - 1

/-- LONG_INIT (R140, R141). -/
def execLongInit (s : State) : Host.Outcome State Fault Refusal :=
  let nb := s.lenMinusOne / 128
  let t := { s with acc := seedLanes s.consts.accInit s.seed, nb := nb, k := 0 }.drew (lenMinus s.len 1) 1
  .next (t.setPhase (if nb = 0 then .longTail else .longRound))

/-- LONG_ROUND (R143): full block number `K`, `INNER`. -/
def execLongRound (s : State) : Host.Outcome State Fault Refusal :=
  afterRead (s.buffer.round s.consts s.acc (some (128 * s.k.toNat)) .inner) fun acc =>
    .next ({ s with acc := acc, k := s.k + 1 }.setPhase (if s.lastBlock then .longTail else .longRound))

/-- LONG_TAIL (R144): the last 128 bytes, `FULL`. Below 128 bytes the words are free values (log 31). -/
def execLongTail (s : State) : Host.Outcome State Fault Refusal :=
  afterRead (s.buffer.round s.consts s.acc (lenMinus s.len 128) .full) fun acc =>
    .next (({ s with acc := acc }.drew (lenMinus s.len 128) 32).setPhase .longMerge)

/-- The sum of the merge (R145): the unseeded lanes and the carry term `len >> 32`. -/
def mergeSum (c : Consts) (acc : Vector Word 32) (len : Len) : Word :=
  unseededSum acc c.accInit + carry32 len

/-- The last mix of the long path (R145): the sum with `lo32(len)`, without the seed. -/
def longMergeDigest (c : Consts) (sum : Word) (len : Len) : Word := mix32 c sum (lo32 len) .full

/-- LONG_MERGE (R145). -/
def execLongMerge (s : State) : Host.Outcome State Fault Refusal :=
  let t := { s with sum := mergeSum s.consts s.acc s.len }
  .next (t.finish (longMergeDigest t.consts t.sum t.len))

/-- `r` full blocks, from block number `k` on (R147). -/
def longRounds (c : Consts) (b : Buffer) (k : Nat) : Nat → Vector Word 32 → Except Fault (Vector Word 32)
  | 0, acc => .ok acc
  | r + 1, acc => do
    let acc' ← b.round c acc (some (128 * k)) .inner
    longRounds c b (k + 1) r acc'

/-- The digest of 128 bytes and more (R101, R147). -/
def longDigest (c : Consts) (b : Buffer) (seed : Word) : Except Fault Word := do
  let acc ← longRounds c b 0 (longBlocks b.len).toNat (seedLanes c.accInit seed)
  let acc' ← b.round c acc (lenMinus b.len 128) .full
  .ok (longMergeDigest c (mergeSum c acc' b.len) b.len)

end Sys2Proof.Machine
end

