-- ==== Sys2Proof/Machine/Tiny.lean ====
section
/-! DEFINITION. The tiny-input mixer (spec/41_tiny.md): the operations TINY0 and TINY14, and the two
paths as functions (R101). -/

namespace Sys2Proof.Machine

open Sys2Proof

/-- TINY0 (R110): the empty input. -/
def execTiny0 (s : State) : Host.Outcome State Fault Refusal :=
  let t := { s with x := s.consts.prime[0] + s.seed }
  .next (t.finish (short32 t.consts t.x 0 false))

/-- TINY14 (R111, R112): the packed word, XORed with prime plus seed, mixed with `seed2`, complemented. At
`LEN = 0` the last byte is a free value (log 31). -/
def execTiny14 (s : State) : Host.Outcome State Fault Refusal :=
  afterRead s.buffer.packTiny fun w =>
    let t := { s with x := w ^^^ (s.consts.prime[3] + s.seed) }.drew (lenMinus s.len 1) 1
    .next (t.finish (~~~ short32 t.consts t.x (lo32 t.len ^^^ t.seed) true))

/-- The digest of the empty input (R101, R110). -/
def tiny0Digest (c : Consts) (seed : Word) : Word := short32 c (c.prime[0] + seed) 0 false

/-- The digest of 1 to 4 bytes (R101, R111, R112). -/
def tiny14Digest (c : Consts) (b : Buffer) (seed : Word) : Except Fault Word := do
  let w ← b.packTiny
  .ok (~~~ short32 c (w ^^^ (c.prime[3] + seed)) (lo32 b.len ^^^ seed) true)

end Sys2Proof.Machine
end

