-- ==== Sys2Proof/Machine/Command.lean ====
section
/-! DEFINITION. The command HASH32 as one step (spec/40_dispatcher.md R101, R106; spec/30_encoding.md R80,
R81, R90): the host writes the three operands and START, the core runs to DONE, the host reads DIGEST. -/

namespace Sys2Proof.Machine

open Sys2Proof

/-- The digest of one class's path (R101). -/
def pathDigest (cls : LengthClass) (c : Consts) (b : Buffer) (seed : Word) : Except Fault Word :=
  match cls with
  | .tiny0 => .ok (tiny0Digest c seed)
  | .tiny14 => tiny14Digest c b seed
  | .short => shortDigest c b seed
  | .medium => mediumDigest c b seed
  | .long => longDigest c b seed

/-- The function `hash32` (R101): the path is selected by the length alone. -/
def hash32Digest (c : Consts) (b : Buffer) (seed : Word) : Except Fault Word :=
  pathDigest (lengthClass b.len) c b seed

/-- The host's three operand writes of a command, in any order (R80, R202). -/
def State.writeOperands (s : State) (ptr : Addr) (len : Len) (seed : Word) : State :=
  ((s.writePtr ptr).writeLen len).writeSeed seed

/-- The host program of R90 in one step (R106), along one class's path. -/
def State.runPath (cls : LengthClass) (ptr : Addr) (len : Len) (seed : Word) (s : State) :
    Host.Outcome State Fault Refusal :=
  if s.busy then .refused .hostWriteWhileBusy
  else if !(s.writeOperands ptr len seed).bufferFits then .refused .bufferWraps
  else
    let t := (s.writeOperands ptr len seed).accept
    afterRead (pathDigest cls t.consts t.buffer seed) fun d => .next ((t.finish d).setResult (d.setWidth 64))

/-- A CMD row (R82): it stands for lengths of its class only (log 30). -/
def State.runRow (cls : LengthClass) (ptr : Addr) (len : Len) (seed : Word) (s : State) :
    Host.Outcome State Fault Refusal :=
  if lengthClass len = cls then s.runPath cls ptr len seed else .refused .lengthOutsideRow

/-- HASH32.TINY0 (R110): the empty input. -/
def execHash32Tiny0 (ptr : Addr) (seed : Word) (s : State) : Host.Outcome State Fault Refusal :=
  s.runRow .tiny0 ptr 0 seed

/-- HASH32.TINY14.len1to3 (R111, R112). -/
def execHash32Tiny14Len1to3 (ptr : Addr) (len : Len) (seed : Word) (s : State) :
    Host.Outcome State Fault Refusal :=
  s.runRow .tiny14 ptr len seed

/-- HASH32.TINY14.len4 (R111, R112). -/
def execHash32Tiny14Len4 (ptr : Addr) (seed : Word) (s : State) : Host.Outcome State Fault Refusal :=
  s.runRow .tiny14 ptr 4 seed

/-- HASH32.SHORT.len5to15 (R124). -/
def execHash32ShortLen5to15 (ptr : Addr) (len : Len) (seed : Word) (s : State) :
    Host.Outcome State Fault Refusal :=
  s.runRow .short ptr len seed

/-- HASH32.SHORT.len16 (R124). -/
def execHash32ShortLen16 (ptr : Addr) (seed : Word) (s : State) : Host.Outcome State Fault Refusal :=
  s.runRow .short ptr 16 seed

/-- HASH32.MEDIUM (R133). -/
def execHash32Medium (ptr : Addr) (len : Len) (seed : Word) (s : State) :
    Host.Outcome State Fault Refusal :=
  s.runRow .medium ptr len seed

/-- HASH32.LONG (R147). -/
def execHash32Long (ptr : Addr) (len : Len) (seed : Word) (s : State) :
    Host.Outcome State Fault Refusal :=
  s.runRow .long ptr len seed

/-- HASH32 (R101): the command with any length. -/
def execHash32 (ptr : Addr) (len : Len) (seed : Word) (s : State) : Host.Outcome State Fault Refusal :=
  s.runPath (lengthClass len) ptr len seed

end Sys2Proof.Machine
end

