-- ==== Sys2Proof/Machine/Dispatcher.lean ====
section
/-! DEFINITION. START and the sequencer operations IDLE, DISPATCH and DONE (spec/40_dispatcher.md). -/

namespace Sys2Proof.Machine

open Sys2Proof

/-- START (R102). Bits 31:1 of the written word are ignored (R27, U4). -/
def execStart (_reserved : BitVec 31) (s : State) : Host.Outcome State Fault Refusal :=
  s.startCommand

/-- IDLE (R103): the core has no step, so its turn changes nothing (log 10). -/
def execIdle (s : State) : Host.Outcome State Fault Refusal := .next s

/-- DONE (R104): the core has no step, so its turn changes nothing (log 10). -/
def execDone (s : State) : Host.Outcome State Fault Refusal := .next s

/-- Where DISPATCH sends each length class (R100, R105). -/
def dispatchTarget : LengthClass → Phase
  | .tiny0 => .tiny0
  | .tiny14 => .tiny14
  | .short => .smInit
  | .medium => .smInit
  | .long => .longInit

/-- DISPATCH (R100): the path is selected by `LEN` alone; no working register is written. -/
def execDispatch (s : State) : Host.Outcome State Fault Refusal :=
  .next (s.setPhase (dispatchTarget (lengthClass s.len)))

end Sys2Proof.Machine
end

