-- ==== Sys2Proof/Machine/Primitives.lean ====
section
/-! DEFINITION. The FUNC rows as operations (spec/45_primitives.md, spec/20_memory.md R52, R53,
spec/44_long.md R142): a primitive reads and writes no register of the block (R160 to R165); applied on the
model's function port, it answers its value in `result` (log 17). The round writes ACC (R142). -/

namespace Sys2Proof.Machine

open Sys2Proof

/-- A function's value on the function port. -/
def State.answer (s : State) (v : Word) : Host.Outcome State Fault Refusal :=
  .next (s.setResult (v.setWidth 64))

/-- `sx_a` (R160). -/
def execSxA (x : Word) (s : State) : Host.Outcome State Fault Refusal := s.answer (sxA x)

/-- `sx_b` (R161). -/
def execSxB (x : Word) (s : State) : Host.Outcome State Fault Refusal := s.answer (sxB x)

/-- `mul16` (R162). -/
def execMul16 (x m : Word) (s : State) : Host.Outcome State Fault Refusal := s.answer (mul16 x m)

/-- `avalanche32(x, INNER)` (R163). -/
def execAvalanche32Inner (x : Word) (s : State) : Host.Outcome State Fault Refusal :=
  s.answer (avalanche32 s.consts x .inner)

/-- `avalanche32(x, FULL)` (R163). -/
def execAvalanche32Full (x : Word) (s : State) : Host.Outcome State Fault Refusal :=
  s.answer (avalanche32 s.consts x .full)

/-- `mix32(h, x, INNER)` (R164). -/
def execMix32Inner (h x : Word) (s : State) : Host.Outcome State Fault Refusal :=
  s.answer (mix32 s.consts h x .inner)

/-- `mix32(h, x, FULL)` (R164). -/
def execMix32Full (h x : Word) (s : State) : Host.Outcome State Fault Refusal :=
  s.answer (mix32 s.consts h x .full)

/-- `SHORT32(x, seed2, 0)` (R165). -/
def execShort32NoSeed2 (x seed2 : Word) (s : State) : Host.Outcome State Fault Refusal :=
  s.answer (short32 s.consts x seed2 false)

/-- `SHORT32(x, seed2, 1)` (R165). -/
def execShort32Seed2 (x seed2 : Word) (s : State) : Host.Outcome State Fault Refusal :=
  s.answer (short32 s.consts x seed2 true)

/-- `MemRead(addr, 1)` (R52). -/
def execMemRead1 (addr : Addr) (s : State) : Host.Outcome State Fault Refusal :=
  afterRead (memRead1 s.mem addr.toNat) fun b => .next (s.setResult (b.setWidth 64))

/-- `MemRead(addr, 4)` (R53). -/
def execMemRead4 (addr : Addr) (s : State) : Host.Outcome State Fault Refusal :=
  afterRead (memRead4 s.mem addr.toNat) fun w => s.answer w

/-- `round(ACC, base, intensity)` (R142): every lane of ACC. -/
def execRound (base : Len) (intensity : Intensity) (s : State) : Host.Outcome State Fault Refusal :=
  afterRead (s.buffer.round s.consts s.acc (some base.toNat) intensity) fun acc => .next { s with acc := acc }

end Sys2Proof.Machine
end

