-- ==== Sys2Proof/Machine/Dispatch.lean ====
section
/-! DEFINITION. One arm per operation of spec/opcode_table.json. -/

namespace Sys2Proof.Machine

open Sys2Proof

/-- What an operation does in a state. -/
def exec (i : Instr) (s : State) : Host.Outcome State Fault Refusal :=
  match i with
  | .hash32Tiny0 ptr seed => Sys2Proof.Machine.execHash32Tiny0 ptr seed s
  | .hash32Tiny14Len1to3 ptr len seed => Sys2Proof.Machine.execHash32Tiny14Len1to3 ptr len seed s
  | .hash32Tiny14Len4 ptr seed => Sys2Proof.Machine.execHash32Tiny14Len4 ptr seed s
  | .hash32ShortLen5to15 ptr len seed => Sys2Proof.Machine.execHash32ShortLen5to15 ptr len seed s
  | .hash32ShortLen16 ptr seed => Sys2Proof.Machine.execHash32ShortLen16 ptr seed s
  | .hash32Medium ptr len seed => Sys2Proof.Machine.execHash32Medium ptr len seed s
  | .hash32Long ptr len seed => Sys2Proof.Machine.execHash32Long ptr len seed s
  | .hash32 ptr len seed => Sys2Proof.Machine.execHash32 ptr len seed s
  | .start reserved => Sys2Proof.Machine.execStart reserved s
  | .idle => Sys2Proof.Machine.execIdle s
  | .dispatch => Sys2Proof.Machine.execDispatch s
  | .tiny0 => Sys2Proof.Machine.execTiny0 s
  | .tiny14 => Sys2Proof.Machine.execTiny14 s
  | .smInit => Sys2Proof.Machine.execSmInit s
  | .shortAbsorb => Sys2Proof.Machine.execShortAbsorb s
  | .medRound => Sys2Proof.Machine.execMedRound s
  | .medTail => Sys2Proof.Machine.execMedTail s
  | .smFinal => Sys2Proof.Machine.execSmFinal s
  | .longInit => Sys2Proof.Machine.execLongInit s
  | .longRound => Sys2Proof.Machine.execLongRound s
  | .longTail => Sys2Proof.Machine.execLongTail s
  | .longMerge => Sys2Proof.Machine.execLongMerge s
  | .done => Sys2Proof.Machine.execDone s
  | .sxA x => Sys2Proof.Machine.execSxA x s
  | .sxB x => Sys2Proof.Machine.execSxB x s
  | .mul16 x m => Sys2Proof.Machine.execMul16 x m s
  | .avalanche32Inner x => Sys2Proof.Machine.execAvalanche32Inner x s
  | .avalanche32Full x => Sys2Proof.Machine.execAvalanche32Full x s
  | .mix32Inner h x => Sys2Proof.Machine.execMix32Inner h x s
  | .mix32Full h x => Sys2Proof.Machine.execMix32Full h x s
  | .short32NoSeed2 x seed2 => Sys2Proof.Machine.execShort32NoSeed2 x seed2 s
  | .short32Seed2 x seed2 => Sys2Proof.Machine.execShort32Seed2 x seed2 s
  | .memRead1 addr => Sys2Proof.Machine.execMemRead1 addr s
  | .memRead4 addr => Sys2Proof.Machine.execMemRead4 addr s
  | .round base intensity => Sys2Proof.Machine.execRound base intensity s

end Sys2Proof.Machine
end

