-- ==== Sys2Proof/Machine/Fetch.lean ====
section
/-! DEFINITION. Where the next operation comes from. HG32 fetches no instructions (spec/10_state.md R31,
spec/20_memory.md R65): at the core's turn the operation is the one `PHASE` names, at the host's turn it is
the command, the START or the function that the turn holds (log 9). -/

namespace Sys2Proof.Machine

open Sys2Proof

/-- The operation of a word, run. -/
def runWord (w : RawWord) (s : State) : Host.Outcome State Fault Refusal :=
  match decode w with
  | .ok i => exec i s
  | .error e => .refused (.undecodable e)

/-- A write that issues a command: bit 0 of `CTRL` set (R27). -/
def isStart (r : HostReg) (v : BitVec 64) : Bool := r = .ctrl && v.getLsbD 0

/-- Is the function port closed to this function? While `BUSY` the core alone writes ACC (R20), so the round
is no move of the port then; every other function leaves the block alone and runs at any time (log 17). -/
def portClosed (s : State) (f : FuncName) : Bool := s.busy && f = .round

/-- The word of the operation that a turn holds, or none where the turn is no operation: another host
access, a platform write, reset, or the round on the function port while `BUSY`. -/
def operationWord (s : State) : Turn → Option RawWord
  | .core => some (.phase s.phase.code)
  | .command w => some (.cmd w)
  | .commandAny w => some (.cmdAny w)
  | .write r v => if isStart r v then some (.ctrl (v.setWidth 32)) else none
  | .read _ => none
  | .apply f w => if portClosed s f then none else some (.func f w)
  | .store _ _ => none
  | .release _ => none
  | .reset => none

/-- The next turn and the state it is taken in, the turn used up. Where no turn is left it is the core's
(R20). -/
def State.nextTurn (s : State) : Turn × State :=
  match s.turns with
  | [] => (.core, s)
  | t :: rest => (t, { s with turns := rest })

/-- The word of the next operation and the state it runs in, if the next turn is an operation. -/
def fetch (s : State) : Option (RawWord × State) :=
  (operationWord s s.nextTurn.1).map fun w => (w, s.nextTurn.2)

/-- What happens at a turn. -/
def doTurn (t : Turn) (s : State) : Host.Outcome State Fault Refusal :=
  match t with
  | .core => runWord (.phase s.phase.code) s
  | .command w => runWord (.cmd w) s
  | .commandAny w => runWord (.cmdAny w) s
  | .write r v => if isStart r v then runWord (.ctrl (v.setWidth 32)) s else s.hostWrite r v
  | .read r => .next (s.hostRead r)
  | .apply f w => if portClosed s f then .refused .roundWhileBusy else runWord (.func f w) s
  | .store addr b => s.platformStore addr b
  | .release addr => s.platformRelease addr
  | .reset => .next s.resetEvent

/-- One turn: the next of the list, or the core's where none is left. -/
def takeTurn (s : State) : Host.Outcome State Fault Refusal := doTurn s.nextTurn.1 s.nextTurn.2

/-- The state in which a word is the next operation (log 20): a code of `PHASE` is put into `PHASE`, a
command, a function or a write to `CTRL` becomes the next turn. For a START the operand registers count as
written, with the values they hold (R202). A code that no operation has is put nowhere. -/
def State.present (s : State) : RawWord → State
  | .phase c =>
    match Phase.ofCode c with
    | some p => { s with phase := p, turns := .core :: s.turns }
    | none => s
  | .ctrl w =>
    { s with
      ptrWritten := true
      lenWritten := true
      seedWritten := true
      turns := .write .ctrl (w.setWidth 64) :: s.turns }
  | .cmd w => { s with turns := .command w :: s.turns }
  | .cmdAny w => { s with turns := .commandAny w :: s.turns }
  | .func f w => { s with turns := .apply f w :: s.turns }

end Sys2Proof.Machine
end

