-- ==== Sys2Proof/Machine/Step.lean ====
section
/-! DEFINITION. One step of HG32: one turn (spec/10_state.md R20, spec/40_dispatcher.md R106). -/

namespace Sys2Proof.Machine

open Sys2Proof

/-- One turn of the machine. -/
def step (s : State) : Host.Outcome State Fault Refusal := takeTurn s

/-- The state in which the next step runs the operation of a table word (log 20). -/
def State.withFetchWord (s : State) (nbits w : Nat) : State := s.present (tableWord nbits w)

end Sys2Proof.Machine
end

