-- ==== Sys2Proof/Safety.lean ====
section
/-! DEFINITION. What counts as a safe run of HG32, in the words the statements use: which states agree with
the length they hash (spec/40_dispatcher.md R105), what a buffer holds, what changes at the end of a
command, how many steps a command takes (R106), and `hash32` written over a buffer's contents (R101). -/

namespace Sys2Proof.Machine

open Sys2Proof

/-! ### Consistent states -/

/-- `PHASE`, `K` and `NB` agree with the length class, as the transitions of R105 leave them (R36, R120,
R140). -/
def State.phaseFits (s : State) : Bool :=
  let cls := lengthClass s.len
  match s.phase with
  | .idle => true
  | .dispatch => true
  | .done => true
  | .tiny0 => cls = .tiny0
  | .tiny14 => cls = .tiny14
  | .smInit => cls = .short || cls = .medium
  | .shortAbsorb => cls = .short
  | .medRound => cls = .medium && s.nb = mediumBlocks s.len && decide (s.k.toNat < s.nb.toNat)
  | .medTail => cls = .medium && s.nb = mediumBlocks s.len && s.k = s.nb
  | .smFinal => cls = .short || cls = .medium
  | .longInit => cls = .long
  | .longRound => cls = .long && s.nb = longBlocks s.len && decide (s.k.toNat < s.nb.toNat)
  | .longTail => cls = .long && s.nb = longBlocks s.len && s.k = s.nb
  | .longMerge => cls = .long

/-- The invariant of the machine: the memory has its canonical form, `PHASE` fits the length, and a busy
core has written operands (R202) and a buffer that does not wrap (R51). -/
abbrev State.consistent (s : State) : Prop :=
  s.mem.wf ∧ s.phaseFits = true ∧
    (s.busy = true → s.operandsWritten = true ∧ s.bufferFits = true)

/-- The next turn is the core's. -/
def State.coreTurn (s : State) : Prop := s.nextTurn.1 = .core

/-- Every byte of the buffer is readable: the host's duty of R181 and R204. -/
def State.bufferReadable (s : State) : Prop :=
  ∀ off, off < s.len.toNat → (s.mem.byteAt (s.ptr.toNat + off)).isSome = true

/-- The offsets of the bytes that the operation of `PHASE` reads: the table of spec/20_memory.md R57, a word at
offset `o` being the bytes `o` to `o + 3`. -/
def State.reads (s : State) (off : Nat) : Prop :=
  let n := s.len.toNat
  match s.phase with
  | .tiny14 => off = 0 ∨ off = n - 1 ∨ off = n / 2 ∨ off = n / 4
  | .shortAbsorb => ∃ o ∈ [0, n / 8 * 4, n - 4, n - 4 - n / 8 * 4], o ≤ off ∧ off < o + 4
  | .medRound => 16 * s.k.toNat ≤ off ∧ off < 16 * s.k.toNat + 16
  | .medTail => n - 16 ≤ off ∧ off < n
  | .longRound => 128 * s.k.toNat ≤ off ∧ off < 128 * s.k.toNat + 128
  | .longTail => n - 128 ≤ off ∧ off < n
  | .idle | .dispatch | .tiny0 | .smInit | .smFinal | .longInit | .longMerge | .done => False

/-! ### What a buffer holds -/

/-- The buffer at `ptr` of `len` bytes is readable and byte `off` of it is `data off`. -/
def Memory.holds (m : Memory) (ptr : Addr) (len : Len) (data : Nat → Byte) : Prop :=
  ∀ off, off < len.toNat → m.byteAt (ptr.toNat + off) = some (data off)

/-- The word at offset `off` of a buffer's contents: the byte at the lowest offset is the low byte (R50). -/
def dataWord (data : Nat → Byte) (off : Nat) : Word :=
  (data (off + 3) ++ data (off + 2) ++ data (off + 1) ++ data off : BitVec 32)

/-! ### What a step leaves alone -/

/-- Every byte of memory reads as before. -/
def sameMemory (s t : State) : Prop := ∀ addr, t.mem.byteAt addr = s.mem.byteAt addr

/-- The operand registers are as before. -/
def sameOperands (s t : State) : Prop := t.ptr = s.ptr ∧ t.len = s.len ∧ t.seed = s.seed

/-- `t` is `s` at the end of a command with this digest (R29, R104): `DIGEST` and `PHASE` are written, the
working registers `X`, `A`, `ACC`, `S`, `K`, `NB` are unspecified, nothing else changes but the count of
free values drawn. -/
def endsWith (s : State) (digest : Word) (t : State) : Prop :=
  t = { s with
    digest := digest, phase := .done, x := t.x, a := t.a, acc := t.acc, sum := t.sum, k := t.k, nb := t.nb,
    draws := t.draws }

/-- `s` after the host has written the three operands of a command (R80, R202). -/
def withOperands (s : State) (ptr : Addr) (len : Len) (seed : Word) : State :=
  { s with ptr := ptr, len := len, seed := seed, ptrWritten := true, lenWritten := true, seedWritten := true }

/-- `t` is what the host program of R90 leaves of `s`: operands written, command ended, digest read. -/
def commandEndsWith (s : State) (ptr : Addr) (len : Len) (seed : Word) (digest : Word) (t : State) : Prop :=
  endsWith { withOperands s ptr len seed with result := digest.setWidth 64 } digest t

/-! ### The length of a command -/

/-- The number of core steps from START to DONE (R106). -/
def coreSteps (len : Len) : Nat :=
  match lengthClass len with
  | .tiny0 => 2
  | .tiny14 => 2
  | .short => 4
  | .medium => 4 + (len.toNat - 1) / 16
  | .long => 4 + (len.toNat - 1) / 128

/-- The host program of R90, turn by turn: operand writes, START, the core's steps, the read of DIGEST. -/
def hostProgram (ptr : Addr) (len : Len) (seed : Word) : List Turn :=
  [.write .ptr ptr, .write .len len, .write .seed (seed.setWidth 64), .write .ctrl 1] ++
    List.replicate (coreSteps len) .core ++ [.read .digest]

/-! ### `hash32` over the contents of a buffer (R101) -/

/-- `SHORT32` of `PRIME32_1 + seed`, without `seed2`, not complemented (R110). -/
def hashTiny0 (c : Consts) (seed : Word) : Word := short32 c (c.prime[0] + seed) 0 false

/-- The packed word, mixed and complemented (R84, R111, R112). -/
def hashTiny14 (c : Consts) (data : Nat → Byte) (len : Len) (seed : Word) : Word :=
  let n := len.toNat
  let w : Word := (data (n - 1) ++ data 0 ++ data (n / 4) ++ data (n / 2) : BitVec 32)
  ~~~ short32 c (w ^^^ (c.prime[3] + seed)) (BitVec.ofNat 32 n ^^^ seed) true

/-- The sum over the lanes of `lane i ^ table[i]` (R123, R145). -/
def laneSum {n : Nat} (table : Vector Word n) (lane : Fin n → Word) : Word :=
  ((List.finRange n).map fun i => lane i ^^^ table[i]).sum

/-- The short path, lane by lane (R124). -/
def hashShort (c : Consts) (data : Nat → Byte) (len : Len) (seed : Word) : Word :=
  let n := len.toNat
  let q := n / 8 * 4
  let offset : Vector Nat 4 := #v[0, q, n - 4, n - 4 - q]
  let lane (i : Fin 4) := mix32 c (c.prime[i] + seed) (dataWord data offset[i]) .full
  mix32 c (laneSum c.prime lane) (BitVec.ofNat 32 n + seed) .full

/-- One lane over the full blocks of `size` bytes, in rising order (R133, R147). -/
def laneBlocks (c : Consts) (data : Nat → Byte) (size i : Nat) (h : Word) (blocks : Nat) : Word :=
  (List.range blocks).foldl (fun h k => mix32 c h (dataWord data (size * k + 4 * i)) .inner) h

/-- The medium path, lane by lane (R133). -/
def hashMedium (c : Consts) (data : Nat → Byte) (len : Len) (seed : Word) : Word :=
  let n := len.toNat
  let lane (i : Fin 4) :=
    mix32 c (laneBlocks c data 16 i (c.prime[i] + seed) ((n - 1) / 16)) (dataWord data (n - 16 + 4 * i)) .full
  mix32 c (laneSum c.prime lane) (BitVec.ofNat 32 n + seed) .full

/-- The long path, lane by lane (R147). -/
def hashLong (c : Consts) (data : Nat → Byte) (len : Len) (seed : Word) : Word :=
  let n := len.toNat
  let lane (i : Fin 32) :=
    mix32 c (laneBlocks c data 128 i (c.accInit[i] + seed) ((n - 1) / 128)) (dataWord data (n - 128 + 4 * i)) .full
  mix32 c (laneSum c.accInit lane + BitVec.ofNat 32 (n / 2 ^ 32)) (BitVec.ofNat 32 n) .full

/-- `hash32` (R101): the path is selected by the length. -/
def hash32 (c : Consts) (data : Nat → Byte) (len : Len) (seed : Word) : Word :=
  if len.toNat = 0 then hashTiny0 c seed
  else if len.toNat ≤ 4 then hashTiny14 c data len seed
  else if len.toNat ≤ 16 then hashShort c data len seed
  else if len.toNat ≤ 127 then hashMedium c data len seed
  else hashLong c data len seed

/-! ### Control transfer -/

/-- The transitions of `PHASE` at a core step (R105), for a length and the counters before the step. -/
def phaseAfter (s : State) : Phase :=
  match s.phase with
  | .idle => .idle
  | .done => .done
  | .dispatch =>
    if s.len.toNat = 0 then .tiny0
    else if s.len.toNat ≤ 4 then .tiny14
    else if s.len.toNat ≤ 127 then .smInit
    else .longInit
  | .tiny0 => .done
  | .tiny14 => .done
  | .smInit => if s.len.toNat ≤ 16 then .shortAbsorb else .medRound
  | .shortAbsorb => .smFinal
  | .medRound => if s.k.toNat + 1 = s.nb.toNat then .medTail else .medRound
  | .medTail => .smFinal
  | .smFinal => .done
  | .longInit => if s.len.toNat ≤ 128 then .longTail else .longRound
  | .longRound => if s.k.toNat + 1 = s.nb.toNat then .longTail else .longRound
  | .longTail => .longMerge
  | .longMerge => .done

end Sys2Proof.Machine
end

