-- ==== Sys2Proof/Certificates/Slice0/Obligations.lean ====
section
/-! DEFINITION. The statements for the provers. Each docstring names the rule of spec/ it formalises, or the
log entry it rests on where it is the model's choice. -/

open Sys2Proof Sys2Proof.Machine

/-! ### Words -/

/-- Log 18 for the words of functions; R80, R82, R85, R86, R87 and R27 for the others. -/
def Obligations.DecodeOfEncodeIsTheOperation : Prop :=
  ∀ i : Instr, i.wellFormed = true → decode (encode i) = .ok i

/-- No bit of a word is dropped: a word that decodes is the word of its operation. -/
def Obligations.EncodeOfDecodeIsTheWord : Prop :=
  ∀ (w : RawWord) (i : Instr), decode w = .ok i → encode i = w ∧ i.wellFormed = true

/-- R80, R81, R82: the row of a command word, from its length field. -/
def Obligations.CommandRowIsTheLengthRange : Prop :=
  ∀ (ptr : Addr) (len : Len) (seed : Word),
    decode (.cmd (seed ++ len ++ ptr : BitVec 160)) = .ok
      (if len.toNat = 0 then .hash32Tiny0 ptr seed
      else if len.toNat ≤ 3 then .hash32Tiny14Len1to3 ptr len seed
      else if len.toNat = 4 then .hash32Tiny14Len4 ptr seed
      else if len.toNat ≤ 15 then .hash32ShortLen5to15 ptr len seed
      else if len.toNat = 16 then .hash32ShortLen16 ptr seed
      else if len.toNat ≤ 127 then .hash32Medium ptr len seed
      else .hash32Long ptr len seed)

/-- R87, R88: the codes of `PHASE`; 14 and 15 stand for nothing. -/
def Obligations.PhaseCodesNameTheirOperations : Prop :=
  decode (.phase 0#4) = .ok .idle ∧ decode (.phase 1#4) = .ok .dispatch ∧
  decode (.phase 2#4) = .ok .tiny0 ∧ decode (.phase 3#4) = .ok .tiny14 ∧
  decode (.phase 4#4) = .ok .smInit ∧ decode (.phase 5#4) = .ok .shortAbsorb ∧
  decode (.phase 6#4) = .ok .medRound ∧ decode (.phase 7#4) = .ok .medTail ∧
  decode (.phase 8#4) = .ok .smFinal ∧ decode (.phase 9#4) = .ok .longInit ∧
  decode (.phase 10#4) = .ok .longRound ∧ decode (.phase 11#4) = .ok .longTail ∧
  decode (.phase 12#4) = .ok .longMerge ∧ decode (.phase 13#4) = .ok .done ∧
  (∀ p : Phase, decode (.phase p.code) = .ok p.operation) ∧
  (∀ c : BitVec 4, 14 ≤ c.toNat → decode (.phase c) = .error (.unusedPhaseCode c)) ∧
  (∀ c : BitVec 4, c.toNat < 14 → ∃ p : Phase, p.code = c)

/-- Words written out from R80, R27, R87, R85 and R86 (the command words are those of spec/95 P1, P2). -/
def Obligations.WrittenOutWordsDecode : Prop :=
  decode (.cmd 0x0000000000000000000000040000000000001000#160) = .ok (.hash32Tiny14Len4 0x1000 0) ∧
  decode (.cmd 0xFFFFFFFF00000000000000140000000000001003#160) = .ok (.hash32Medium 0x1003 20 0xFFFFFFFF) ∧
  decode (.cmd 0xB6589493000000000000012C0000000000001007#160) = .ok (.hash32Long 0x1007 300 0xB6589493) ∧
  decode (.ctrl 0x00000001#32) = .ok (.start 0) ∧
  decode (.ctrl 0x00000002#32) = .error .startBitClear ∧
  decode (.phase 0x6#4) = .ok .medRound ∧
  decode (.phase 0xC#4) = .ok .longMerge ∧
  decode (.func .avalanche32 0x000000001234567800000001#96) = .ok (.avalanche32Full 0x12345678) ∧
  decode (.func .short32 0x9ABCDEF01234567800000000#96) = .ok (.short32NoSeed2 0x12345678 0x9ABCDEF0)

/-! ### Steps -/

/-- A step runs the operation it fetches, the turn used up; a word without one is refused (log 9). -/
def Obligations.StepRunsTheFetchedOperation : Prop :=
  ∀ (s t : State) (w : RawWord), fetch s = some (w, t) →
    t = { s with turns := s.turns.tail } ∧
    (∀ i : Instr, decode w = .ok i → step s = exec i t) ∧
    (∀ e : DecodeError, decode w = .error e → step s = .refused (.undecodable e))

/-- R20, R31: at the core's turn the operation is the one `PHASE` names. -/
def Obligations.CoreTurnRunsPhase : Prop :=
  ∀ (s : State) (rest : List Turn),
    (s.turns = [] → step s = exec s.phase.operation s) ∧
    (s.turns = .core :: rest → step s = exec s.phase.operation { s with turns := rest })

/-- R27, R80 and log 9: the host's commands, its START and the function port. -/
def Obligations.HostTurnsRunTheirOperation : Prop :=
  ∀ (s : State) (rest : List Turn),
    (∀ (ptr : Addr) (len : Len) (seed : Word) (i : Instr),
      decode (.cmd (seed ++ len ++ ptr : BitVec 160)) = .ok i →
      s.turns = .command (seed ++ len ++ ptr : BitVec 160) :: rest → step s = exec i { s with turns := rest }) ∧
    (∀ (ptr : Addr) (len : Len) (seed : Word), s.turns = .commandAny (seed ++ len ++ ptr : BitVec 160) :: rest →
      step s = exec (.hash32 ptr len seed) { s with turns := rest }) ∧
    (∀ v : BitVec 64, v.getLsbD 0 = true → s.turns = .write .ctrl v :: rest →
      step s = exec (.start (v.extractLsb' 1 31)) { s with turns := rest }) ∧
    (∀ (i : Instr) (f : FuncName) (w : BitVec 96), i.wellFormed = true → encode i = .func f w →
      s.turns = .apply f w :: rest →
      step s = if s.busy = true ∧ f = .round then .refused .roundWhileBusy else exec i { s with turns := rest })

/-- Log 20: a table word that decodes is run by the very next step, in a state that differs from `s` at most
in `PHASE` and in which operands count as written. -/
def Obligations.PlacedWordIsRunNext : Prop :=
  ∀ (s : State) (nbits w : Nat) (i : Instr), decodeTableWord nbits w = some i →
    ∃ t : State, step (s.withFetchWord nbits w) = exec i t ∧
      t = { s with
        phase := t.phase, ptrWritten := t.ptrWritten, lenWritten := t.lenWritten,
        seedWritten := t.seedWritten } ∧
      (i.format ≠ .phase → t.phase = s.phase) ∧
      (i.format = .phase → t.phase.operation = i)

/-! ### Primitives -/

/-- R160. -/
def Obligations.SxAIsTheShiftXorStep : Prop :=
  (∀ x : Word, sxA x = x ^^^ BitVec.ofNat 32 (x.toNat / 2 ^ 8) ^^^ BitVec.ofNat 32 (x.toNat / 2 ^ 21)) ∧
  sxA 0 = 0 ∧
  (∀ x : Word, (sxA x).extractLsb' 24 8 = x.extractLsb' 24 8) ∧
  sxA 0x80000000 = 0x80800400 ∧ sxA 0xFFFFFFFF = 0xFF0007FF ∧ sxA 0x12345678 = 0x122662BF

/-- R161. -/
def Obligations.SxBIsTheShiftXorStep : Prop :=
  (∀ x : Word, sxB x =
    x ^^^ BitVec.ofNat 32 (x.toNat * 2 ^ 12 % 2 ^ 32) ^^^ BitVec.ofNat 32 (x.toNat / 2 ^ 7)) ∧
  sxB 0 = 0 ∧
  sxB 0x00000001 = 0x00001001 ∧ sxB 0x80000000 = 0x81000000 ∧ sxB 0xFFFFFFFF = 0x01FFF000 ∧
  sxB 0x12345678 = 0x5777BED4

/-- R162: two 16-bit products, each modulo 2^16, and the corner cases of the rule. -/
def Obligations.Mul16MultipliesTheLanes : Prop :=
  (∀ x m : Word, (mul16 x m).toNat =
    (x.toNat / 2 ^ 16 * (m.toNat / 2 ^ 16)) % 2 ^ 16 * 2 ^ 16 +
      (x.toNat % 2 ^ 16 * (m.toNat % 2 ^ 16)) % 2 ^ 16) ∧
  (∀ m : Word, mul16 0 m = 0) ∧ (∀ x : Word, mul16 x 0 = 0) ∧
  (∀ x : Word, mul16 x 0x00010001 = x) ∧ (∀ m : Word, mul16 0x00010001 m = m) ∧
  (∀ x m : Word, x.toNat % 2 ^ 16 = 0 → (mul16 x m).toNat % 2 ^ 16 = 0) ∧
  (∀ x m : Word, x.toNat / 2 ^ 16 = 0 → (mul16 x m).toNat / 2 ^ 16 = 0) ∧
  (∃ x m : Word, mul16 x m ≠ x * m) ∧
  mul16 0xFFFFFFFF 0xFFFFFFFF = 0x00010001 ∧ mul16 0x00018000 0x00020002 = 0x00020000 ∧
  mul16 0x12345678 0x89ABCDEF = 0xFCBCD208

/-- R163: the step list, `FULL` as `INNER` with one closing step, and the rule's example. -/
def Obligations.AvalancheIsItsStepList : Prop :=
  ∀ (c : Consts) (x : Word),
    avalanche32 c x .inner = mul16 (sxB (mul16 (sxA x) c.m3)) c.m4 ∧
    avalanche32 c x .full = sxA (avalanche32 c x .inner) ∧
    (c.m3 = 0x89ABCDEF → c.m4 = 0x13579BDF →
      avalanche32 c 0x12345678 .inner = 0xD83B2A09 ∧ avalanche32 c 0x12345678 .full = 0xD8E317E2)

/-- What R160 and R163 infer from their formulas: `sx_a` is a bijection, and 0 is a fixed point of `avalanche32`
whatever the constants. -/
def Obligations.SxAIsABijectionAndZeroIsFixed : Prop :=
  Function.Bijective sxA ∧ ∀ (c : Consts) (i : Intensity), avalanche32 c 0 i = 0

/-- R164, with its corner cases and its example. -/
def Obligations.MixIsTheAvalancheOfTheXor : Prop :=
  ∀ (c : Consts) (h x : Word) (i : Intensity),
    mix32 c h x i = avalanche32 c (h ^^^ x) i ∧
    mix32 c h x i = mix32 c x h i ∧
    mix32 c h h i = 0 ∧
    mix32 c h 0 i = avalanche32 c h i ∧
    (c.m3 = 0x89ABCDEF → c.m4 = 0x13579BDF → mix32 c 0xFFFFFFFB 0x03020100 .full = 0xFFF668AF)

/-- R9: a function of its arguments and of `M1`, `M2` alone, and without `seed2` where `withSeed2` is 0. -/
def Obligations.Short32DependsOnItsArgumentsOnly : Prop :=
  (∀ (c c' : Consts) (x seed2 : Word) (b : Bool), c.m1 = c'.m1 → c.m2 = c'.m2 →
    short32 c x seed2 b = short32 c' x seed2 b) ∧
  (∀ (c : Consts) (x seed2 seed2' : Word), short32 c x seed2 false = short32 c x seed2' false)

/-- R146: the lanes may be computed one at a time in any order. -/
def Obligations.LaneOrderIsFree : Prop :=
  ∀ (n : Nat) (c : Consts) (acc w : Vector Word n) (i : Intensity) (order : List (Fin n)),
    order.Nodup → (∀ j : Fin n, j ∈ order) →
    mixLanesInOrder c w i order acc = mixLanes c acc w i

/-- The functions on the model's port (log 17): each completes with the value of its rule in `result` and
changes nothing else. -/
def Obligations.FunctionsAnswerTheirValue : Prop :=
  ∀ (s : State) (h x m seed2 : Word),
    exec (.sxA x) s = .next { s with result := (x ^^^ (x >>> 8) ^^^ (x >>> 21)).setWidth 64 } ∧
    exec (.sxB x) s = .next { s with result := (x ^^^ (x <<< 12) ^^^ (x >>> 7)).setWidth 64 } ∧
    exec (.mul16 x m) s = .next { s with result := (mul16 x m).setWidth 64 } ∧
    exec (.avalanche32Inner x) s = .next { s with
      result := (mul16 (sxB (mul16 (sxA x) s.consts.m3)) s.consts.m4).setWidth 64 } ∧
    exec (.avalanche32Full x) s = .next { s with
      result := (sxA (mul16 (sxB (mul16 (sxA x) s.consts.m3)) s.consts.m4)).setWidth 64 } ∧
    exec (.mix32Inner h x) s = .next { s with
      result := (mul16 (sxB (mul16 (sxA (h ^^^ x)) s.consts.m3)) s.consts.m4).setWidth 64 } ∧
    exec (.mix32Full h x) s = .next { s with
      result := (sxA (mul16 (sxB (mul16 (sxA (h ^^^ x)) s.consts.m3)) s.consts.m4)).setWidth 64 } ∧
    exec (.short32NoSeed2 x seed2) s = .next { s with
      result := (Config.short32Plain s.consts.m1 s.consts.m2 x).setWidth 64 } ∧
    exec (.short32Seed2 x seed2) s = .next { s with
      result := (Config.short32Keyed s.consts.m1 s.consts.m2 x seed2).setWidth 64 }

/-- R52, R53, R60 on the function port (log 17): a read answers the bytes, the lowest address the low byte,
at any alignment, and is stuck at the first byte that is not readable. -/
def Obligations.MemoryReadsAnswerTheBytes : Prop :=
  ∀ (s : State) (addr : Addr),
    (∀ b : Byte, s.mem.byteAt addr.toNat = some b →
      exec (.memRead1 addr) s = .next { s with result := b.setWidth 64 }) ∧
    (s.mem.byteAt addr.toNat = none → exec (.memRead1 addr) s = .fault (.unreadable addr.toNat)) ∧
    (∀ b0 b1 b2 b3 : Byte, s.mem.byteAt addr.toNat = some b0 → s.mem.byteAt (addr.toNat + 1) = some b1 →
      s.mem.byteAt (addr.toNat + 2) = some b2 → s.mem.byteAt (addr.toNat + 3) = some b3 →
      exec (.memRead4 addr) s = .next { s with result := (b3 ++ b2 ++ b1 ++ b0 : BitVec 32).setWidth 64 }) ∧
    (∀ j : Nat, j < 4 → (∀ i < j, (s.mem.byteAt (addr.toNat + i)).isSome = true) →
      s.mem.byteAt (addr.toNat + j) = none →
      exec (.memRead4 addr) s = .fault (.unreadable (addr.toNat + j)))

/-- R142: each lane on its own, by the rule's step list, which is `mix32` lane by lane (the sentence the rule
derives from R163 and R164); stuck at an unreadable byte of the block (R60). That the round runs as an operation
of its own, which answers nothing, is log 17. -/
def Obligations.RoundFoldsABlockIntoEveryLane : Prop :=
  ∀ (s : State) (base : Len) (intensity : Intensity),
    (∀ off, base.toNat ≤ off → off < base.toNat + 128 → s.mem.byteAt (s.ptr.toNat + off) = none →
      ∃ o, base.toNat ≤ o ∧ o < base.toNat + 128 ∧ s.mem.byteAt (s.ptr.toNat + o) = none ∧
        exec (.round base intensity) s = .fault (.unreadable (s.ptr.toNat + o))) ∧
    ∀ data : Nat → Byte,
    (∀ off, base.toNat ≤ off → off < base.toNat + 128 →
      s.mem.byteAt (s.ptr.toNat + off) = some (data off)) →
    exec (.round base intensity) s = .next { s with
      acc := Vector.ofFn fun i : Fin 32 =>
        let x0 := s.acc[i] ^^^ dataWord data (base.toNat + 4 * i)
        let x1 := x0 ^^^ (x0 >>> 8) ^^^ (x0 >>> 21)
        let x2 := mul16 x1 s.consts.m3
        let x3 := x2 ^^^ (x2 <<< 12) ^^^ (x2 >>> 7)
        let x4 := mul16 x3 s.consts.m4
        match intensity with
        | .inner => x4
        | .full => x4 ^^^ (x4 >>> 8) ^^^ (x4 >>> 21) } ∧
    exec (.round base intensity) s = .next { s with
      acc := Vector.ofFn fun i : Fin 32 =>
        mix32 s.consts s.acc[i] (dataWord data (base.toNat + 4 * i)) intensity }

/-! ### The sequencer operations -/

/-- R102: START in `IDLE` or `DONE`, the operands written (R202) and the buffer not wrapping (R51). `DIGEST`
becomes unspecified: any value. -/
def Obligations.StartIssuesACommand : Prop :=
  ∀ (s : State) (reserved : BitVec 31), s.phase = .idle ∨ s.phase = .done →
    s.lenWritten = true → s.seedWritten = true → s.ptrWritten = true ∨ s.len.toNat = 0 →
    s.ptr.toNat + s.len.toNat ≤ 2 ^ 64 →
    ∃ t : State, exec (.start reserved) s = .next t ∧
      t = { s with phase := .dispatch, digest := t.digest, draws := t.draws } ∧ t.status = 1

/-- When a START is not accepted: while `BUSY` (R30, U5), with an operand not written since reset (R202, U7),
with a buffer that wraps (R51, U3). The same for a command, which writes its operands itself. -/
def Obligations.StartOrCommandIsRefused : Prop :=
  (∀ (s : State) (ptr : Addr) (len : Len) (seed : Word),
    (s.busy = true → exec (.hash32 ptr len seed) s = .refused .hostWriteWhileBusy) ∧
    (s.busy = false → 2 ^ 64 < ptr.toNat + len.toNat → exec (.hash32 ptr len seed) s = .refused .bufferWraps)) ∧
  ∀ (s : State) (reserved : BitVec 31),
    (s.phase ≠ .idle → s.phase ≠ .done → exec (.start reserved) s = .refused .hostWriteWhileBusy) ∧
    (s.phase = .idle ∨ s.phase = .done →
      s.lenWritten = false ∨ s.seedWritten = false ∨ (s.ptrWritten = false ∧ s.len.toNat ≠ 0) →
      exec (.start reserved) s = .refused .operandUnwritten) ∧
    (s.phase = .idle ∨ s.phase = .done → s.lenWritten = true → s.seedWritten = true → s.ptrWritten = true →
      2 ^ 64 < s.ptr.toNat + s.len.toNat → exec (.start reserved) s = .refused .bufferWraps)

/-- R103 and, for `DONE`, R104: the core has no step there (log 10: its turn changes nothing); `IDLE` is left
only by a START or a command, and entered only by reset. -/
def Obligations.IdleAndDoneHaveNoStep : Prop :=
  State.reset.phase = .idle ∧
  (∀ s : State, exec .idle s = .next s ∧ exec .done s = .next s) ∧
  (∀ s t : State, step s = .next t → s.coreTurn → s.phase = .idle ∨ s.phase = .done →
    t = { s with turns := s.turns.tail }) ∧
  (∀ s t : State, step s = .next t → t.phase = .idle → s.phase = .idle ∨ s.nextTurn.1 = .reset) ∧
  (∀ s t : State, step s = .next t → s.phase = .idle → t.phase ≠ .idle →
    (∃ v : BitVec 64, v.getLsbD 0 = true ∧ s.nextTurn.1 = .write .ctrl v) ∨
      (∃ w, s.nextTurn.1 = .command w) ∨ (∃ w, s.nextTurn.1 = .commandAny w))

/-- R100: `LEN` alone selects the path, and nothing but `PHASE` changes. -/
def Obligations.DispatchSelectsByLength : Prop :=
  ∀ s : State, exec .dispatch s = .next { s with
    phase :=
      if s.len.toNat = 0 then .tiny0
      else if s.len.toNat ≤ 4 then .tiny14
      else if s.len.toNat ≤ 16 then .smInit
      else if s.len.toNat ≤ 127 then .smInit
      else .longInit }

/-- R110; the working registers are unspecified after `DONE` (R104, log 16). -/
def Obligations.Tiny0EndsWithItsDigest : Prop :=
  ∀ s : State, ∃ t : State, exec .tiny0 s = .next t ∧
    endsWith s (short32 s.consts (s.consts.prime[0] + s.seed) 0 false) t

/-- R84, R111, R112; the working registers are unspecified after `DONE` (R104, log 16). -/
def Obligations.Tiny14EndsWithItsDigest : Prop :=
  ∀ (s : State) (data : Nat → Byte), 1 ≤ s.len.toNat → s.len.toNat ≤ 4 → s.mem.holds s.ptr s.len data →
    ∃ t : State, exec .tiny14 s = .next t ∧ endsWith s (hashTiny14 s.consts data s.len s.seed) t

/-- R120. -/
def Obligations.SmInitSeedsTheAccumulators : Prop :=
  ∀ s : State,
    (s.len.toNat ≤ 16 → exec .smInit s = .next { s with
      a := Vector.ofFn fun i : Fin 4 => s.consts.prime[i] + s.seed, k := 0, phase := .shortAbsorb }) ∧
    (16 < s.len.toNat → exec .smInit s = .next { s with
      a := Vector.ofFn fun i : Fin 4 => s.consts.prime[i] + s.seed, k := 0,
      nb := BitVec.ofNat 64 ((s.len.toNat - 1) / 16), phase := .medRound })

/-- R121, R122: the four words at `0`, `q`, `len-4`, `len-4-q`, word `i` into `A[i]`, `FULL`. -/
def Obligations.ShortAbsorbMixesFourWords : Prop :=
  ∀ (s : State) (data : Nat → Byte), 5 ≤ s.len.toNat → s.len.toNat ≤ 16 → s.mem.holds s.ptr s.len data →
    exec .shortAbsorb s = .next { s with
      a := #v[
        mix32 s.consts s.a[0] (dataWord data 0) .full,
        mix32 s.consts s.a[1] (dataWord data (s.len.toNat / 8 * 4)) .full,
        mix32 s.consts s.a[2] (dataWord data (s.len.toNat - 4)) .full,
        mix32 s.consts s.a[3] (dataWord data (s.len.toNat - 4 - s.len.toNat / 8 * 4)) .full],
      phase := .smFinal }

/-- R131: full block number `K`, `INNER`; the test uses `K` before the increment. -/
def Obligations.MedRoundAbsorbsBlockK : Prop :=
  ∀ (s : State) (data : Nat → Byte),
    (∀ off, 16 * s.k.toNat ≤ off → off < 16 * s.k.toNat + 16 →
      s.mem.byteAt (s.ptr.toNat + off) = some (data off)) →
    exec .medRound s = .next { s with
      a := Vector.ofFn fun i : Fin 4 =>
        mix32 s.consts s.a[i] (dataWord data (16 * s.k.toNat + 4 * i)) .inner,
      k := s.k + 1,
      phase := if s.k.toNat + 1 = s.nb.toNat then .medTail else .medRound }

/-- R132: the last 16 bytes, `FULL`. -/
def Obligations.MedTailAbsorbsTheLastBlock : Prop :=
  ∀ (s : State) (data : Nat → Byte), 16 ≤ s.len.toNat →
    (∀ off, s.len.toNat - 16 ≤ off → off < s.len.toNat → s.mem.byteAt (s.ptr.toNat + off) = some (data off)) →
    exec .medTail s = .next { s with
      a := Vector.ofFn fun i : Fin 4 =>
        mix32 s.consts s.a[i] (dataWord data (s.len.toNat - 16 + 4 * i)) .full,
      phase := .smFinal }

/-- R123; the working registers are unspecified after `DONE` (R104, log 16). -/
def Obligations.SmFinalEndsWithItsDigest : Prop :=
  ∀ s : State, ∃ t : State, exec .smFinal s = .next t ∧
    endsWith s (mix32 s.consts
      ((s.a[0] ^^^ s.consts.prime[0]) + (s.a[1] ^^^ s.consts.prime[1]) +
        (s.a[2] ^^^ s.consts.prime[2]) + (s.a[3] ^^^ s.consts.prime[3]))
      (BitVec.ofNat 32 s.len.toNat + s.seed) .full) t

/-- R140, R141. -/
def Obligations.LongInitSeedsTheLanes : Prop :=
  ∀ s : State, 1 ≤ s.len.toNat → exec .longInit s = .next { s with
    acc := Vector.ofFn fun i : Fin 32 => s.consts.accInit[i] + s.seed,
    nb := BitVec.ofNat 64 ((s.len.toNat - 1) / 128),
    k := 0,
    phase := if (s.len.toNat - 1) / 128 = 0 then .longTail else .longRound }

/-- R143: full block number `K`, `INNER`; the test uses `K` before the increment. -/
def Obligations.LongRoundFoldsBlockK : Prop :=
  ∀ (s : State) (data : Nat → Byte),
    (∀ off, 128 * s.k.toNat ≤ off → off < 128 * s.k.toNat + 128 →
      s.mem.byteAt (s.ptr.toNat + off) = some (data off)) →
    exec .longRound s = .next { s with
      acc := Vector.ofFn fun i : Fin 32 =>
        mix32 s.consts s.acc[i] (dataWord data (128 * s.k.toNat + 4 * i)) .inner,
      k := s.k + 1,
      phase := if s.k.toNat + 1 = s.nb.toNat then .longTail else .longRound }

/-- R144: the last 128 bytes, `FULL`. -/
def Obligations.LongTailFoldsTheLastBlock : Prop :=
  ∀ (s : State) (data : Nat → Byte), 128 ≤ s.len.toNat →
    (∀ off, s.len.toNat - 128 ≤ off → off < s.len.toNat → s.mem.byteAt (s.ptr.toNat + off) = some (data off)) →
    exec .longTail s = .next { s with
      acc := Vector.ofFn fun i : Fin 32 =>
        mix32 s.consts s.acc[i] (dataWord data (s.len.toNat - 128 + 4 * i)) .full,
      phase := .longMerge }

/-- R145: the carry term in the sum, no seed in the last mix; the working registers are unspecified after
`DONE` (R104, log 16). -/
def Obligations.LongMergeEndsWithItsDigest : Prop :=
  ∀ s : State, ∃ t : State, exec .longMerge s = .next t ∧
    endsWith s (mix32 s.consts
      (laneSum s.consts.accInit (fun i => s.acc[i]) + BitVec.ofNat 32 (s.len.toNat / 2 ^ 32))
      (BitVec.ofNat 32 (s.len.toNat % 2 ^ 32)) .full) t

/-- The model's choice, log 31: where a rule forms `LEN - c` and `LEN` is below `c`, which no command reaches and the
spec does not state, the operation runs with a free value in that place and with every other effect of its rule. -/
def Obligations.OperationsRunAtUnstatedLengths : Prop :=
  ∀ s : State,
    (s.len.toNat = 0 → ∃ lenMinusOne : Len, exec .longInit s = .next { s with
      acc := Vector.ofFn fun i : Fin 32 => s.consts.accInit[i] + s.seed,
      nb := lenMinusOne / 128,
      k := 0,
      phase := if lenMinusOne / 128 = 0 then .longTail else .longRound,
      draws := s.draws + 1 }) ∧
    (s.len.toNat < 16 → ∃ w : Vector Word 4, exec .medTail s = .next { s with
      a := Vector.ofFn fun i : Fin 4 => mix32 s.consts s.a[i] w[i] .full,
      phase := .smFinal,
      draws := s.draws + 4 }) ∧
    (s.len.toNat < 128 → ∃ w : Vector Word 32, exec .longTail s = .next { s with
      acc := Vector.ofFn fun i : Fin 32 => mix32 s.consts s.acc[i] w[i] .full,
      phase := .longMerge,
      draws := s.draws + 32 }) ∧
    (∀ b : Byte, s.len.toNat = 0 → s.mem.byteAt s.ptr.toNat = some b →
      ∃ (last : Byte) (t : State), exec .tiny14 s = .next t ∧
        endsWith s (~~~ short32 s.consts
          ((last ++ b ++ b ++ b : BitVec 32) ^^^ (s.consts.prime[3] + s.seed)) s.seed true) t) ∧
    (∀ data : Nat → Byte, s.len.toNat < 4 →
      (∀ off, off < 4 → s.mem.byteAt (s.ptr.toNat + off) = some (data off)) →
      ∃ w2 w3 : Word, exec .shortAbsorb s = .next { s with
        a := #v[
          mix32 s.consts s.a[0] (dataWord data 0) .full, mix32 s.consts s.a[1] (dataWord data 0) .full,
          mix32 s.consts s.a[2] w2 .full, mix32 s.consts s.a[3] w3 .full],
        phase := .smFinal,
        draws := s.draws + 4 })

/-! ### The command -/

/-- HASH32.TINY0 (R110): no memory is read. -/
def Obligations.Hash32Tiny0RowCompletes : Prop :=
  ∀ (s : State) (ptr : Addr) (seed : Word), s.busy = false →
    ∃ t : State, exec (.hash32Tiny0 ptr seed) s = .next t ∧
      commandEndsWith s ptr 0 seed (hashTiny0 s.consts seed) t

/-- HASH32.TINY14.len1to3 and HASH32.TINY14.len4 (R111, R112). -/
def Obligations.Hash32Tiny14RowsComplete : Prop :=
  ∀ (s : State) (ptr : Addr) (seed : Word) (data : Nat → Byte), s.busy = false →
    (∀ len : Len, 1 ≤ len.toNat → len.toNat ≤ 3 → s.mem.holds ptr len data →
      ∃ t : State, exec (.hash32Tiny14Len1to3 ptr len seed) s = .next t ∧
        commandEndsWith s ptr len seed (hashTiny14 s.consts data len seed) t) ∧
    (s.mem.holds ptr 4 data →
      ∃ t : State, exec (.hash32Tiny14Len4 ptr seed) s = .next t ∧
        commandEndsWith s ptr 4 seed (hashTiny14 s.consts data 4 seed) t)

/-- HASH32.SHORT.len5to15 and HASH32.SHORT.len16 (R124). -/
def Obligations.Hash32ShortRowsComplete : Prop :=
  ∀ (s : State) (ptr : Addr) (seed : Word) (data : Nat → Byte), s.busy = false →
    (∀ len : Len, 5 ≤ len.toNat → len.toNat ≤ 15 → s.mem.holds ptr len data →
      ∃ t : State, exec (.hash32ShortLen5to15 ptr len seed) s = .next t ∧
        commandEndsWith s ptr len seed (hashShort s.consts data len seed) t) ∧
    (s.mem.holds ptr 16 data →
      ∃ t : State, exec (.hash32ShortLen16 ptr seed) s = .next t ∧
        commandEndsWith s ptr 16 seed (hashShort s.consts data 16 seed) t)

/-- HASH32.MEDIUM (R133). -/
def Obligations.Hash32MediumRowCompletes : Prop :=
  ∀ (s : State) (ptr : Addr) (len : Len) (seed : Word) (data : Nat → Byte), s.busy = false →
    17 ≤ len.toNat → len.toNat ≤ 127 → s.mem.holds ptr len data →
    ∃ t : State, exec (.hash32Medium ptr len seed) s = .next t ∧
      commandEndsWith s ptr len seed (hashMedium s.consts data len seed) t

/-- HASH32.LONG (R147). -/
def Obligations.Hash32LongRowCompletes : Prop :=
  ∀ (s : State) (ptr : Addr) (len : Len) (seed : Word) (data : Nat → Byte), s.busy = false →
    128 ≤ len.toNat → s.mem.holds ptr len data →
    ∃ t : State, exec (.hash32Long ptr len seed) s = .next t ∧
      commandEndsWith s ptr len seed (hashLong s.consts data len seed) t

/-- HASH32 (R101): the digest is `hash32` of the contents, the length and the seed, for every length; and there is
no digest where a byte of the buffer is not readable: the read has no step (R60, R181, U1). -/
def Obligations.Hash32ComputesTheHash : Prop :=
  ∀ (s : State) (ptr : Addr) (len : Len) (seed : Word), s.busy = false →
    (∀ data : Nat → Byte, s.mem.holds ptr len data →
      ∃ t : State, exec (.hash32 ptr len seed) s = .next t ∧
        commandEndsWith s ptr len seed (hash32 s.consts data len seed) t) ∧
    (∀ t : State, exec (.hash32 ptr len seed) s = .next t →
      ∀ off, off < len.toNat → (s.mem.byteAt (ptr.toNat + off)).isSome = true) ∧
    (ptr.toNat + len.toNat ≤ 2 ^ 64 → ∀ off, off < len.toNat → s.mem.byteAt (ptr.toNat + off) = none →
      ∃ o, o < len.toNat ∧ s.mem.byteAt (ptr.toNat + o) = none ∧
        exec (.hash32 ptr len seed) s = .fault (.unreadable (ptr.toNat + o)))

/-- R106: the command in one step and the host program of R90 run turn by turn, with the rule's number of
core steps, give the same outcome: the same state, or the same stop. -/
def Obligations.CommandIsItsHostProgram : Prop :=
  ∀ (s : State) (ptr : Addr) (len : Len) (seed : Word) (rest : List Turn),
    Host.Core.run Sys2Proof.core (5 + coreSteps len) { s with turns := hostProgram ptr len seed ++ rest } =
      exec (.hash32 ptr len seed) { s with turns := rest }

/-- A class row is the command HASH32 restricted to its lengths (R82, R101). -/
def Obligations.CommandRowsRefineHash32 : Prop :=
  ∀ (w : BitVec 160) (i j : Instr) (s : State),
    decode (.cmd w) = .ok i → decode (.cmdAny w) = .ok j → exec i s = exec j s

/-- R38, R101: the digest depends on the buffer's bytes, the length, the seed and the constants alone. -/
def Obligations.DigestDependsOnTheInputAlone : Prop :=
  ∀ (s s' t t' : State) (ptr ptr' : Addr) (len : Len) (seed : Word), s.consts = s'.consts →
    (∀ off, off < len.toNat → s.mem.byteAt (ptr.toNat + off) = s'.mem.byteAt (ptr'.toNat + off)) →
    exec (.hash32 ptr len seed) s = .next t → exec (.hash32 ptr' len seed) s' = .next t' →
    t.digest = t'.digest ∧ t.result = t'.result

/-! ### The whole machine -/

/-- The invariant at reset. -/
def Obligations.ResetIsConsistent : Prop := State.reset.consistent

/-- The invariant at every step, whatever the turn. -/
def Obligations.StepKeepsConsistency : Prop :=
  ∀ s t : State, s.consistent → step s = .next t → t.consistent

/-- R57, R58, R60, R181: the bytes that the operation of `PHASE` reads lie inside the buffer; a core turn that has
a next state has read each of them, and no other byte of memory matters to it; where the core is stuck, that is at
one of them which is not readable; a core turn is never refused. -/
def Obligations.CoreReadsOnlyTheBuffer : Prop :=
  ∀ s : State, s.consistent → s.coreTurn →
    (∀ off, s.reads off → off < s.len.toNat) ∧
    (∀ t : State, step s = .next t →
      (∀ off, s.reads off → (s.mem.byteAt (s.ptr.toNat + off)).isSome = true) ∧
      (∀ m : Memory, (∀ off, s.reads off → m.byteAt (s.ptr.toNat + off) = s.mem.byteAt (s.ptr.toNat + off)) →
        step { s with mem := m } = .next { t with mem := m })) ∧
    (∀ f : Fault, step s = .fault f → ∃ off, s.reads off ∧ f = .unreadable (s.ptr.toNat + off) ∧
      s.mem.byteAt (s.ptr.toNat + off) = none) ∧
    (∀ r : Refusal, step s ≠ .refused r)

/-- R180, R181: where the bytes its operation reads are readable, and so over a readable buffer, the core is never
stuck. -/
def Obligations.CoreRunsOnAReadableBuffer : Prop :=
  ∀ s : State, s.consistent → s.coreTurn →
    s.bufferReadable ∨ (∀ off, s.reads off → (s.mem.byteAt (s.ptr.toNat + off)).isSome = true) →
    ∃ t : State, step s = .next t

/-- R37, R65: no step changes the constant store. -/
def Obligations.ConstantsNeverChange : Prop :=
  ∀ s t : State, step s = .next t → t.consts = s.consts

/-- R55, R56: memory changes only where an agent of the platform changes it; the core writes none. -/
def Obligations.OnlyThePlatformWritesMemory : Prop :=
  ∀ s t : State, step s = .next t → (∀ addr b, s.nextTurn.1 ≠ .store addr b) →
    (∀ addr, s.nextTurn.1 ≠ .release addr) → t.mem = s.mem ∧ sameMemory s t

/-- R29, R30: while the core is busy, and but for a reset, the operand registers keep their values, and `DIGEST`
keeps its value at every step, whoever takes it, but the one that ends the command. -/
def Obligations.OperandsAreStableWhileBusy : Prop :=
  ∀ s t : State, step s = .next t → s.busy = true →
    (s.nextTurn.1 ≠ .reset → sameOperands s t) ∧
    (s.nextTurn.1 ≠ .reset → t.phase ≠ .done → t.digest = s.digest)

/-- R105: the transitions of `PHASE` at a core turn, in states whose `PHASE` fits `LEN` (a part of the invariant
`State.consistent`). -/
def Obligations.PhaseFollowsTheTransitionTable : Prop :=
  ∀ s t : State, s.phaseFits = true → s.coreTurn → step s = .next t → t.phase = phaseAfter s

/-- R210: two commands of one length go through the same operations, whatever the data, seed, pointer and
constants. `PHASE` fits `LEN` (a part of the invariant `State.consistent`). -/
def Obligations.ControlDoesNotDependOnData : Prop :=
  ∀ s s' t t' : State, s.phaseFits = true → s.coreTurn → s'.coreTurn → s.phase = s'.phase → s.len = s'.len → s.k = s'.k →
    s.nb = s'.nb → step s = .next t → step s' = .next t' →
    t.phase = t'.phase ∧ (t.busy = true → t.len = t'.len ∧ t.k = t'.k ∧ t.nb = t'.nb)

/-! ### The host's side -/

/-- R28. -/
def Obligations.StatusIsAViewOfPhase : Prop :=
  (∀ s : State, s.status.getLsbD 0 = decide (s.phase ≠ .idle ∧ s.phase ≠ .done) ∧
    s.status.getLsbD 1 = decide (s.phase = .done) ∧
    (∀ j, 2 ≤ j → s.status.getLsbD j = false) ∧
    ¬(s.status.getLsbD 0 = true ∧ s.status.getLsbD 1 = true)) ∧
  State.reset.status = 0 ∧
  (∀ (s : State) (v : BitVec 64) (rest : List Turn), s.turns = .write .status v :: rest →
    step s = .next { s with turns := rest })

/-- R23 to R27, R30: what the host's writes do, and that the four writes are no moves while `BUSY`. The write
to `DIGEST` is log 25. -/
def Obligations.HostWritesReachTheirRegister : Prop :=
  ∀ (s : State) (v : BitVec 64) (rest : List Turn),
    (s.busy = false → s.turns = .write .ptr v :: rest →
      step s = .next { s with turns := rest, ptr := v, ptrWritten := true }) ∧
    (s.busy = false → s.turns = .write .len v :: rest →
      step s = .next { s with turns := rest, len := v, lenWritten := true }) ∧
    (s.busy = false → s.turns = .write .seed v :: rest →
      step s = .next { s with turns := rest, seed := BitVec.ofNat 32 v.toNat, seedWritten := true }) ∧
    (s.busy = false → v.getLsbD 0 = false → s.turns = .write .ctrl v :: rest →
      step s = .next { s with turns := rest }) ∧
    (s.turns = .write .digest v :: rest → step s = .next { s with turns := rest }) ∧
    (∀ r : HostReg, r = .ptr ∨ r = .len ∨ r = .seed ∨ r = .ctrl → s.busy = true →
      s.turns = .write r v :: rest → step s = .refused .hostWriteWhileBusy)

/-- R23 to R29: what the host's reads answer; an unspecified register (R41, U6, log 14) answers any value
of the register's width (log 25), and no read changes anything of the block. -/
def Obligations.HostReadsAnswerTheRegister : Prop :=
  ∀ (s : State) (r : HostReg) (rest : List Turn), s.turns = .read r :: rest →
    ∃ t : State, step s = .next t ∧ t = { s with turns := rest, result := t.result, draws := t.draws } ∧
      (r = .ptr → s.ptrWritten = true → t.result = s.ptr) ∧
      (r = .len → s.lenWritten = true → t.result = s.len) ∧
      (r = .seed → s.seedWritten = true → t.result = BitVec.ofNat 64 s.seed.toNat) ∧
      (r = .ctrl → t.result = 0) ∧
      (r = .status → t.result = BitVec.ofNat 64 s.status.toNat) ∧
      (r = .digest → s.phase = .done → t.result = BitVec.ofNat 64 s.digest.toNat) ∧
      (r ≠ .ptr → r ≠ .len → t.result.toNat < 2 ^ 32)

/-- R56, R62, R205: another agent may write or withdraw a byte, but no byte of the buffer while `BUSY`; every
other byte reads as before. -/
def Obligations.PlatformWritesOneByte : Prop :=
  ∀ (s : State) (addr : Addr) (b : Byte) (rest : List Turn),
    let inBuf : Prop := s.ptr.toNat ≤ addr.toNat ∧ addr.toNat < s.ptr.toNat + s.len.toNat
    (s.turns = .store addr b :: rest →
      (s.busy = true ∧ inBuf → step s = .refused .bufferWriteWhileBusy) ∧
      (¬(s.busy = true ∧ inBuf) → ∃ t : State, step s = .next t ∧ t = { s with turns := rest, mem := t.mem } ∧
        t.mem.byteAt addr.toNat = some b ∧
        ∀ other, other ≠ addr.toNat → t.mem.byteAt other = s.mem.byteAt other)) ∧
    (s.turns = .release addr :: rest →
      (s.busy = true ∧ inBuf → step s = .refused .bufferWriteWhileBusy) ∧
      (¬(s.busy = true ∧ inBuf) → ∃ t : State, step s = .next t ∧ t = { s with turns := rest, mem := t.mem } ∧
        t.mem.byteAt addr.toNat = none ∧
        ∀ other, other ≠ addr.toNat → t.mem.byteAt other = s.mem.byteAt other))

/-- R41, R200: `PHASE = IDLE`, `STATUS` reads 0, `CONST` holds its configured values, no operand is written;
no address is readable before the platform says so (R59). -/
def Obligations.ResetStateIsAsStated : Prop :=
  State.reset.phase = .idle ∧ State.reset.status = 0 ∧ State.reset.consts = Config.consts ∧
  State.reset.operandsWritten = false ∧ (∀ addr, State.reset.mem.byteAt addr = none)

/-- R200, R201, R202: reset from any state, busy or not. Every register but `PHASE` is unspecified after it,
the constants and the memory are untouched, and a START before new operands is refused. -/
def Obligations.ResetAbandonsTheCommand : Prop :=
  ∀ (s : State) (rest : List Turn), s.turns = .reset :: rest →
    ∃ t : State, step s = .next t ∧ t.phase = .idle ∧ t.status = 0 ∧ t.consts = s.consts ∧ t.mem = s.mem ∧
      t.turns = rest ∧ t.result = s.result ∧
      (∀ reserved : BitVec 31, exec (.start reserved) t = .refused .operandUnwritten)
end

