-- ==== Sys2Proof/Laws/Memory.lean ====
section
/-! SUPPORT. The laws of the buffer space: reading after a write, and the canonical form. -/

namespace Sys2Proof.Machine

open Sys2Proof

/-! ### Reading after a change -/

theorem Memory.lookup_store_same (m : Memory) (addr : Nat) (b : Byte) :
    List.lookup addr (m.store addr b) = some b := by
  induction m with
  | nil => simp [Memory.store]
  | cons c rest ih =>
    obtain ⟨a, v⟩ := c
    simp only [Memory.store]
    split
    · simp
    · split
      · simp
      · rename_i _ hne
        simp [List.lookup, beq_false_of_ne hne, ih]

theorem Memory.lookup_store_other (m : Memory) (addr other : Nat) (b : Byte) (h : other ≠ addr) :
    List.lookup other (m.store addr b) = List.lookup other m := by
  induction m with
  | nil => simp [Memory.store, List.lookup, beq_false_of_ne h]
  | cons c rest ih =>
    obtain ⟨a, v⟩ := c
    simp only [Memory.store]
    split
    · simp [List.lookup, beq_false_of_ne h]
    · split
      · rename_i _ heq
        subst heq
        simp [List.lookup, beq_false_of_ne h]
      · simp only [List.lookup, ih]

/-- A byte written inside the address space reads as written. -/
theorem Memory.byteAt_store_same (m : Memory) (addr : Nat) (b : Byte) (h : addr < 2 ^ Config.addrBits) :
    (m.store addr b).byteAt addr = some b := by
  simp only [Memory.byteAt, if_pos h, Memory.lookup_store_same]

/-- Every other byte reads as before. -/
theorem Memory.byteAt_store_other (m : Memory) (addr other : Nat) (b : Byte) (h : other ≠ addr) :
    (m.store addr b).byteAt other = m.byteAt other := by
  simp only [Memory.byteAt, Memory.lookup_store_other m addr other b h]

theorem Memory.lookup_release_same (m : Memory) (addr : Nat) :
    List.lookup addr (m.release addr) = none := by
  induction m with
  | nil => rfl
  | cons c rest ih =>
    obtain ⟨a, v⟩ := c
    by_cases h : a = addr
    · simpa [Memory.release, h] using ih
    · have h' : addr ≠ a := fun e => h e.symm
      simpa [Memory.release, h, List.lookup, beq_false_of_ne h'] using ih

theorem Memory.lookup_release_other (m : Memory) (addr other : Nat) (h : other ≠ addr) :
    List.lookup other (m.release addr) = List.lookup other m := by
  induction m with
  | nil => rfl
  | cons c rest ih =>
    obtain ⟨a, v⟩ := c
    by_cases ha : a = addr
    · subst ha
      simpa [Memory.release, List.lookup, beq_false_of_ne h] using ih
    · simp only [Memory.release, List.filter, ha, ne_eq, not_false_eq_true, decide_true, List.lookup]
      split
      · rfl
      · exact ih

/-- A byte made unreadable reads as nothing. -/
theorem Memory.byteAt_release_same (m : Memory) (addr : Nat) : (m.release addr).byteAt addr = none := by
  simp only [Memory.byteAt, Memory.lookup_release_same, ite_self]

/-- Every other byte reads as before. -/
theorem Memory.byteAt_release_other (m : Memory) (addr other : Nat) (h : other ≠ addr) :
    (m.release addr).byteAt other = m.byteAt other := by
  simp only [Memory.byteAt, Memory.lookup_release_other m addr other h]

/-! ### The canonical form -/

theorem Memory.mem_store {m : Memory} {addr : Nat} {b : Byte} {c : Host.Cell} (h : c ∈ m.store addr b) :
    c = (addr, b) ∨ c ∈ m := by
  induction m with
  | nil => simpa [Memory.store] using h
  | cons d rest ih =>
    obtain ⟨a, v⟩ := d
    simp only [Memory.store] at h
    split at h
    · simpa using h
    · split at h
      · rcases List.mem_cons.mp h with h | h
        · exact .inl h
        · exact .inr (List.mem_cons_of_mem _ h)
      · rcases List.mem_cons.mp h with h | h
        · exact .inr (h ▸ List.mem_cons_self)
        · exact (ih h).imp id (List.mem_cons_of_mem _)

/-- A write inside the address space keeps the canonical form. -/
theorem Memory.wf_store {m : Memory} (addr : Nat) (b : Byte) (h : m.wf) (ha : addr < 2 ^ Config.addrBits) :
    (m.store addr b).wf := by
  refine ⟨?_, fun c hc => ?_⟩
  · obtain ⟨hs, -⟩ := h
    induction m with
    | nil => simp [Memory.store]
    | cons c rest ih =>
      obtain ⟨a, v⟩ := c
      rw [List.map_cons, List.pairwise_cons] at hs
      obtain ⟨hlt, hrest⟩ := hs
      simp only [Memory.store]
      split
      · rename_i hlt'
        refine List.pairwise_cons.mpr ⟨fun x hx => ?_, List.pairwise_cons.mpr ⟨hlt, hrest⟩⟩
        rcases List.mem_cons.mp hx with hx | hx
        · exact hx ▸ hlt'
        · exact lt_trans hlt' (hlt x hx)
      · split
        · rename_i _ heq
          exact List.pairwise_cons.mpr ⟨heq ▸ hlt, hrest⟩
        · rename_i h1 h2
          refine List.pairwise_cons.mpr ⟨fun x hx => ?_, ih hrest⟩
          obtain ⟨c, hc, rfl⟩ := List.mem_map.mp hx
          rcases Memory.mem_store hc with rfl | hc
          · exact lt_of_le_of_ne (not_lt.mp h1) (Ne.symm h2)
          · exact hlt _ (List.mem_map.mpr ⟨c, hc, rfl⟩)
  · rcases Memory.mem_store hc with rfl | hc
    · exact ha
    · exact h.2 c hc

/-- Making a byte unreadable keeps the canonical form. -/
theorem Memory.wf_release {m : Memory} (addr : Nat) (h : m.wf) : (m.release addr).wf :=
  ⟨h.1.sublist (List.filter_sublist.map _), fun c hc => h.2 c (List.mem_filter.mp hc).1⟩

/-- The memory after reset has the canonical form. -/
theorem State.reset_wf : State.reset.mem.wf := ⟨List.Pairwise.nil, fun _ h => nomatch h⟩

end Sys2Proof.Machine
end

