-- ==== Sys2Proof/Laws/Ops.lean ====
section
/-! SUPPORT. For each shared operation, once, everything it can do: what it needs to answer a value or a next
state, and why it stops. Later proofs cite these and do not unfold the operations. -/

namespace Sys2Proof.Machine

open Sys2Proof

/-! ### Operations that read -/

section Reads

variable {α : Type} {r : Except Fault α} {k : α → Host.Outcome State Fault Refusal}

theorem afterRead_next {t : State} (h : afterRead r k = .next t) : ∃ v, r = .ok v ∧ k v = .next t := by
  cases r with
  | ok v => exact ⟨v, rfl, h⟩
  | error f => cases h

theorem afterRead_fault {f : Fault} (h : afterRead r k = .fault f) :
    r = .error f ∨ ∃ v, r = .ok v ∧ k v = .fault f := by
  cases r with
  | ok v => exact .inr ⟨v, rfl, h⟩
  | error g => cases h; exact .inl rfl

theorem afterRead_refused {e : Refusal} (h : afterRead r k = .refused e) :
    ∃ v, r = .ok v ∧ k v = .refused e := by
  cases r with
  | ok v => exact ⟨v, rfl, h⟩
  | error g => cases h

@[simp] theorem afterRead_ok (v : α) : afterRead (.ok v) k = k v := rfl

@[simp] theorem afterRead_error (f : Fault) : afterRead (.error f) k = .fault f := rfl

end Reads

/-- A sequence of two reads answers exactly where both do. -/
theorem bind_ok {α β : Type} {r : Except Fault α} {g : α → Except Fault β} {b : β} :
    (r >>= g) = .ok b ↔ ∃ a, r = .ok a ∧ g a = .ok b := by
  cases r with
  | ok a => exact ⟨fun h => ⟨a, rfl, h⟩, fun ⟨_, h, hg⟩ => by cases h; exact hg⟩
  | error f => exact ⟨(nomatch ·), fun ⟨_, h, _⟩ => nomatch h⟩

/-- A sequence of two reads stops where the first does, or where the second does after it. -/
theorem bind_error {α β : Type} {r : Except Fault α} {g : α → Except Fault β} {f : Fault} :
    (r >>= g) = .error f ↔ r = .error f ∨ ∃ a, r = .ok a ∧ g a = .error f := by
  cases r with
  | ok a => exact ⟨fun h => .inr ⟨a, rfl, h⟩, fun h => h.elim (nomatch ·) fun ⟨_, h, hg⟩ => by cases h; exact hg⟩
  | error e =>
    exact ⟨fun h => .inl (by cases h; rfl), fun h => h.elim (fun h => by cases h; rfl) fun ⟨_, h, _⟩ => nomatch h⟩

theorem memRead1_ok {m : Memory} {addr : Nat} {b : Byte} :
    memRead1 m addr = .ok b ↔ m.byteAt addr = some b := by
  unfold memRead1
  cases m.byteAt addr <;> simp

theorem memRead1_error {m : Memory} {addr : Nat} {f : Fault} :
    memRead1 m addr = .error f ↔ m.byteAt addr = none ∧ f = .unreadable addr := by
  unfold memRead1
  cases m.byteAt addr <;> simp [eq_comm]

theorem memRead4_ok {m : Memory} {addr : Nat} {w : Word} :
    memRead4 m addr = .ok w ↔ ∃ b0 b1 b2 b3, m.byteAt addr = some b0 ∧ m.byteAt (addr + 1) = some b1 ∧
      m.byteAt (addr + 2) = some b2 ∧ m.byteAt (addr + 3) = some b3 ∧ w = littleEndian b0 b1 b2 b3 := by
  simp only [memRead4, bind_ok, memRead1_ok, Except.ok.injEq]
  constructor
  · rintro ⟨b0, h0, b1, h1, b2, h2, b3, h3, rfl⟩
    exact ⟨b0, b1, b2, b3, h0, h1, h2, h3, rfl⟩
  · rintro ⟨b0, b1, b2, b3, h0, h1, h2, h3, rfl⟩
    exact ⟨b0, h0, b1, h1, b2, h2, b3, h3, rfl⟩

/-- A word read is stuck at its first unreadable byte. -/
theorem memRead4_error {m : Memory} {addr : Nat} {f : Fault} (h : memRead4 m addr = .error f) :
    ∃ j, j < 4 ∧ (∀ i < j, (m.byteAt (addr + i)).isSome = true) ∧ m.byteAt (addr + j) = none ∧
      f = .unreadable (addr + j) := by
  simp only [memRead4, bind_error, memRead1_error, memRead1_ok, reduceCtorEq, and_false, exists_false,
    or_false] at h
  rcases h with ⟨h, hf⟩ | ⟨_, h0, ⟨h, hf⟩ | ⟨_, h1, ⟨h, hf⟩ | ⟨_, h2, h, hf⟩⟩⟩
  · exact ⟨0, by omega, by omega, h, hf⟩
  · refine ⟨1, by omega, fun i hi => ?_, h, hf⟩
    obtain rfl : i = 0 := by omega
    exact Option.isSome_of_eq_some h0
  · refine ⟨2, by omega, fun i hi => ?_, h, hf⟩
    obtain rfl | rfl : i = 0 ∨ i = 1 := by omega
    · exact Option.isSome_of_eq_some h0
    · exact Option.isSome_of_eq_some h1
  · refine ⟨3, by omega, fun i hi => ?_, h, hf⟩
    obtain rfl | rfl | rfl : i = 0 ∨ i = 1 ∨ i = 2 := by omega
    · exact Option.isSome_of_eq_some h0
    · exact Option.isSome_of_eq_some h1
    · exact Option.isSome_of_eq_some h2

theorem byte_ok {b : Buffer} {off : Nat} {v : Byte} : b.byte off = .ok v ↔ b.mem.byteAt (b.addr off) = some v :=
  memRead1_ok

/-- A byte read stops only where the byte is not readable. -/
theorem byte_error {b : Buffer} {off : Nat} {f : Fault} :
    b.byte off = .error f ↔ b.mem.byteAt (b.addr off) = none ∧ f = .unreadable (b.addr off) :=
  memRead1_error

theorem word_ok {b : Buffer} {off : Nat} {w : Word} :
    b.word off = .ok w ↔ memRead4 b.mem (b.addr off) = .ok w := Iff.rfl

/-- A word read stops only at an unreadable byte of the word. -/
theorem word_error {b : Buffer} {off : Nat} {f : Fault} (h : b.word off = .error f) :
    ∃ o, off ≤ o ∧ o < off + 4 ∧ b.mem.byteAt (b.addr o) = none ∧ f = .unreadable (b.addr o) := by
  obtain ⟨j, hj, -, hn, hf⟩ := memRead4_error h
  exact ⟨off + j, by omega, by omega, by rwa [Buffer.addr, ← Nat.add_assoc], by rwa [Buffer.addr, ← Nat.add_assoc]⟩

/-! ### Offsets that the spec states, and those it does not (log 31) -/

@[simp] theorem byteAt_some (b : Buffer) (j off : Nat) : b.byteAt j (some off) = b.byte off := rfl

@[simp] theorem byteAt_none (b : Buffer) (j : Nat) :
    b.byteAt j none = .ok ((Config.freeWord (b.draws + j)).setWidth 8) := rfl

@[simp] theorem wordAt_some (b : Buffer) (j off : Nat) : b.wordAt j (some off) = b.word off := rfl

@[simp] theorem wordAt_none (b : Buffer) (j : Nat) : b.wordAt j none = .ok (Config.freeWord (b.draws + j)) := rfl

theorem lenMinus_stated {len : Len} {c : Nat} (h : c ≤ len.toNat) : lenMinus len c = some (len.toNat - c) :=
  if_pos h

theorem lenMinus_unstated {len : Len} {c : Nat} (h : len.toNat < c) : lenMinus len c = none :=
  if_neg (by omega)

@[simp] theorem blockOffset_some (base i : Nat) : blockOffset (some base) i = some (base + 4 * i) := rfl

@[simp] theorem blockOffset_none (i : Nat) : blockOffset none i = none := rfl

/-- A read that stops has an offset, and stops at an unreadable byte of its word. -/
theorem wordAt_error {b : Buffer} {j : Nat} {off : Offset} {f : Fault} (h : b.wordAt j off = .error f) :
    ∃ p o, off = some p ∧ p ≤ o ∧ o < p + 4 ∧ b.mem.byteAt (b.addr o) = none ∧ f = .unreadable (b.addr o) := by
  cases off with
  | none => cases h
  | some p =>
    obtain ⟨o, h1, h2, h3, h4⟩ := word_error h
    exact ⟨p, o, rfl, h1, h2, h3, h4⟩

/-- A read that answers has read every byte of its word. -/
theorem wordAt_readable {b : Buffer} {j p : Nat} {w : Word} (h : b.wordAt j (some p) = .ok w) (o : Nat) (h1 : p ≤ o)
    (h2 : o < p + 4) : (b.mem.byteAt (b.addr o)).isSome = true := by
  obtain ⟨b0, b1, b2, b3, e0, e1, e2, e3, -⟩ := memRead4_ok.mp h
  simp only [Buffer.addr, Nat.add_assoc] at *
  obtain rfl | rfl | rfl | rfl : o = p ∨ o = p + 1 ∨ o = p + 2 ∨ o = p + 3 := by omega
  · exact Option.isSome_of_eq_some e0
  · exact Option.isSome_of_eq_some e1
  · exact Option.isSome_of_eq_some e2
  · exact Option.isSome_of_eq_some e3

theorem words_ok {b : Buffer} {n : Nat} {off : Nat → Offset} {ws : Vector Word n} :
    b.words n off = .ok ws ↔ ∀ (i : Nat) (hi : i < n), b.wordAt i (off i) = .ok ws[i] := by
  induction n with
  | zero =>
    simp only [Buffer.words]
    exact ⟨fun _ i hi => absurd hi (by omega), fun _ => congrArg _ (Vector.ext fun i hi => absurd hi (by omega))⟩
  | succ n ih =>
    simp only [Buffer.words, bind_ok, Except.ok.injEq]
    constructor
    · rintro ⟨vs, hvs, w, hw, rfl⟩ i hi
      rw [ih] at hvs
      rcases Nat.lt_succ_iff_lt_or_eq.mp hi with hi' | rfl
      · rw [Vector.getElem_push_lt hi']; exact hvs i hi'
      · rw [Vector.getElem_push_eq]; exact hw
    · intro h
      refine ⟨Vector.ofFn fun i => ws[i.val], ih.mpr fun i hi => ?_, ws[n], h n (by omega), ?_⟩
      · rw [Vector.getElem_ofFn]; exact h i (by omega)
      · refine Vector.ext fun i hi => ?_
        rcases Nat.lt_succ_iff_lt_or_eq.mp hi with hi' | rfl
        · rw [Vector.getElem_push_lt hi', Vector.getElem_ofFn]
        · rw [Vector.getElem_push_eq]

theorem words_error {b : Buffer} {n : Nat} {off : Nat → Offset} {f : Fault} (h : b.words n off = .error f) :
    ∃ i < n, b.wordAt i (off i) = .error f := by
  induction n with
  | zero => cases h
  | succ n ih =>
    simp only [Buffer.words, bind_error] at h
    rcases h with h | ⟨_, -, h⟩
    · obtain ⟨i, hi, he⟩ := ih h
      exact ⟨i, by omega, he⟩
    · simp only [reduceCtorEq, and_false, exists_false, or_false] at h
      exact ⟨n, by omega, h⟩

/-- A block whose offset the spec does not state is a block of free values. -/
theorem words_unstated (b : Buffer) (n : Nat) :
    b.words n (blockOffset none) = .ok (Vector.ofFn fun i : Fin n => Config.freeWord (b.draws + i)) :=
  words_ok.mpr fun i hi => by simp

theorem absorb_ok {n : Nat} {b : Buffer} {c : Consts} {acc acc' : Vector Word n} {base : Offset} {i : Intensity} :
    b.absorb c acc base i = .ok acc' ↔
      ∃ w, b.words n (blockOffset base) = .ok w ∧ acc' = mixLanes c acc w i := by
  simp only [Buffer.absorb, bind_ok, Except.ok.injEq, eq_comm (a := acc')]

/-- A block that stops has an offset, and stops at an unreadable byte of the block. -/
theorem absorb_error {n : Nat} {b : Buffer} {c : Consts} {acc : Vector Word n} {base : Offset} {i : Intensity}
    {f : Fault} (h : b.absorb c acc base i = .error f) :
    ∃ p o, base = some p ∧ p ≤ o ∧ o < p + 4 * n ∧ b.mem.byteAt (b.addr o) = none ∧ f = .unreadable (b.addr o) := by
  simp only [Buffer.absorb, bind_error, reduceCtorEq, and_false, exists_false, or_false] at h
  obtain ⟨j, hj, he⟩ := words_error h
  obtain ⟨q, o, hq, h1, h2, h3⟩ := wordAt_error he
  cases base with
  | none => cases hq
  | some p =>
    simp only [blockOffset_some, Option.some.injEq] at hq
    exact ⟨p, o, rfl, by omega, by omega, h3⟩

/-- A block that is absorbed has been read in every byte. -/
theorem absorb_readable {n : Nat} {b : Buffer} {c : Consts} {acc acc' : Vector Word n} {p : Nat} {i : Intensity}
    (h : b.absorb c acc (some p) i = .ok acc') (o : Nat) (h1 : p ≤ o) (h2 : o < p + 4 * n) :
    (b.mem.byteAt (b.addr o)).isSome = true := by
  obtain ⟨w, hw, -⟩ := absorb_ok.mp h
  have hj := words_ok.mp hw ((o - p) / 4) (by omega)
  rw [blockOffset_some] at hj
  exact wordAt_readable hj o (by omega) (by omega)

theorem packTiny_ok {b : Buffer} {w : Word} :
    b.packTiny = .ok w ↔ ∃ first last mid1 mid2, b.byte 0 = .ok first ∧
      b.byteAt 0 (lenMinus b.len 1) = .ok last ∧
      b.byte (b.len.toNat / 2) = .ok mid1 ∧ b.byte (b.len.toNat / 4) = .ok mid2 ∧
      w = tinyWord first last mid1 mid2 := by
  simp only [Buffer.packTiny, bind_ok, Except.ok.injEq]
  constructor
  · rintro ⟨b0, h0, b1, h1, b2, h2, b3, h3, rfl⟩
    exact ⟨b0, b1, b2, b3, h0, h1, h2, h3, rfl⟩
  · rintro ⟨b0, b1, b2, b3, h0, h1, h2, h3, rfl⟩
    exact ⟨b0, h0, b1, h1, b2, h2, b3, h3, rfl⟩

/-- Packing a tiny input stops only at an unreadable byte among those at `0`, `len-1`, `len>>1`, `len>>2`. -/
theorem packTiny_error {b : Buffer} {f : Fault} (h : b.packTiny = .error f) :
    ∃ o, (o = 0 ∨ lenMinus b.len 1 = some o ∨ o = b.len.toNat / 2 ∨ o = b.len.toNat / 4) ∧
      b.mem.byteAt (b.addr o) = none ∧ f = .unreadable (b.addr o) := by
  simp only [Buffer.packTiny, bind_error, reduceCtorEq, and_false, exists_false, or_false] at h
  rcases h with h | ⟨_, -, h | ⟨_, -, h | ⟨_, -, h⟩⟩⟩
  · exact ⟨_, .inl rfl, byte_error.mp h⟩
  · cases hl : lenMinus b.len 1 with
    | none => rw [hl] at h; cases h
    | some o => rw [hl] at h; exact ⟨o, .inr (.inl rfl), byte_error.mp h⟩
  · exact ⟨_, .inr (.inr (.inl rfl)), byte_error.mp h⟩
  · exact ⟨_, .inr (.inr (.inr rfl)), byte_error.mp h⟩

/-! ### Lanes -/

@[simp] theorem mixLanes_get {n : Nat} (c : Consts) (acc w : Vector Word n) (i : Intensity) (j : Nat)
    (hj : j < n) : (mixLanes c acc w i)[j] = mix32 c acc[j] w[j] i := by
  simp [mixLanes]

@[simp] theorem seedLanes_get {n : Nat} (table : Vector Word n) (seed : Word) (j : Nat) (hj : j < n) :
    (seedLanes table seed)[j] = table[j] + seed := by
  simp [seedLanes]

/-! ### Host accesses -/

theorem startRefusal_none {s : State} :
    s.startRefusal = none ↔ s.busy = false ∧ s.operandsWritten = true ∧ s.bufferFits = true := by
  unfold State.startRefusal
  cases s.busy <;> cases s.operandsWritten <;> cases s.bufferFits <;> simp

/-- A START that is accepted (R102). -/
theorem startCommand_next {s t : State} (h : s.startCommand = .next t) :
    s.busy = false ∧ s.operandsWritten = true ∧ s.bufferFits = true ∧ t = s.accept := by
  unfold State.startCommand at h
  split at h
  · cases h
  · rename_i hn
    cases h
    exact ⟨(startRefusal_none.mp hn).1, (startRefusal_none.mp hn).2.1, (startRefusal_none.mp hn).2.2, rfl⟩

/-- A host write changes nothing, or writes one operand register of a core that is not busy. -/
theorem hostWrite_next {s t : State} {r : HostReg} {v : BitVec 64} (h : s.hostWrite r v = .next t) :
    t = s ∨ (s.busy = false ∧ (t = s.writePtr v ∨ t = s.writeLen v ∨ t = s.writeSeed (v.setWidth 32))) := by
  cases r <;> simp only [State.hostWrite] at h <;> (try split at h) <;> cases h
  · rename_i hb; exact .inr ⟨by simpa using hb, .inl rfl⟩
  · rename_i hb; exact .inr ⟨by simpa using hb, .inr (.inl rfl)⟩
  · rename_i hb; exact .inr ⟨by simpa using hb, .inr (.inr rfl)⟩
  · exact .inl rfl
  · exact .inl rfl
  · exact .inl rfl

/-- A host read changes nothing but the answer. -/
theorem hostRead_cases (s : State) (r : HostReg) :
    (∃ v, s.hostRead r = s.setResult v) ∨ s.hostRead r = s.freeResult ∨ s.hostRead r = s.freeResult32 := by
  cases r <;> simp only [State.hostRead] <;> (try split) <;>
    first
      | exact .inr (.inl rfl)
      | exact .inr (.inr rfl)
      | exact .inl ⟨_, rfl⟩

theorem platformStore_next {s t : State} {addr : Addr} {b : Byte} (h : s.platformStore addr b = .next t) :
    (s.busy && s.inBuffer addr) = false ∧ t = { s with mem := s.mem.store addr.toNat b } := by
  unfold State.platformStore at h
  split at h <;> cases h
  rename_i hb
  exact ⟨by simpa using hb, rfl⟩

theorem platformRelease_next {s t : State} {addr : Addr} (h : s.platformRelease addr = .next t) :
    (s.busy && s.inBuffer addr) = false ∧ t = { s with mem := s.mem.release addr.toNat } := by
  unfold State.platformRelease at h
  split at h <;> cases h
  rename_i hb
  exact ⟨by simpa using hb, rfl⟩

/-! ### Commands -/

/-- A command that completes. -/
theorem runPath_next {s t : State} {cls : LengthClass} {ptr : Addr} {len : Len} {seed : Word}
    (h : s.runPath cls ptr len seed = .next t) :
    s.busy = false ∧ ptr.toNat + len.toNat ≤ 2 ^ Config.addrBits ∧
      ∃ d, pathDigest cls s.consts (s.writeOperands ptr len seed).accept.buffer seed = .ok d ∧
        t = ((s.writeOperands ptr len seed).accept.finish d).setResult (d.setWidth 64) := by
  unfold State.runPath at h
  split at h
  · cases h
  · rename_i hb
    split at h
    · cases h
    · rename_i hf
      obtain ⟨d, hd, ht⟩ := afterRead_next h
      cases ht
      refine ⟨by simpa using hb, ?_, d, hd, rfl⟩
      rw [Bool.not_eq_true', Bool.not_eq_false] at hf
      exact of_decide_eq_true hf

/-- A CMD row that completes is a command of its class. -/
theorem runRow_next {s t : State} {cls : LengthClass} {ptr : Addr} {len : Len} {seed : Word}
    (h : s.runRow cls ptr len seed = .next t) :
    lengthClass len = cls ∧ s.runPath cls ptr len seed = .next t := by
  unfold State.runRow at h
  split at h
  · exact ⟨by assumption, h⟩
  · cases h

/-! ### Turns -/

theorem runWord_ok {w : RawWord} {i : Instr} (s : State) (h : decode w = .ok i) : runWord w s = exec i s := by
  simp [runWord, h]

theorem runWord_error {w : RawWord} {e : DecodeError} (s : State) (h : decode w = .error e) :
    runWord w s = .refused (.undecodable e) := by
  simp [runWord, h]

/-- A word that is run to a next state stands for an operation. -/
theorem runWord_next {w : RawWord} {s t : State} (h : runWord w s = .next t) :
    ∃ i, decode w = .ok i ∧ exec i s = .next t := by
  unfold runWord at h
  split at h
  · exact ⟨_, by assumption, h⟩
  · cases h

/-- The code in `PHASE` stands for the operation of that name (R31, R87). -/
@[simp] theorem decode_phase (p : Phase) : decode (.phase p.code) = .ok p.operation := by
  cases p <;> rfl

/-- Every turn that gives a next state, once: the core's operation, an operation of the host's, another host
access, a change of memory, reset. -/
theorem doTurn_next {tn : Turn} {s t : State} (h : doTurn tn s = .next t) :
    (tn = .core ∧ exec s.phase.operation s = .next t) ∨
    (∃ w, tn = .command w ∧ exec (decodeCommand (commandPtr w) (commandLen w) (commandSeed w)) s = .next t) ∨
    (∃ w, tn = .commandAny w ∧ exec (.hash32 (commandPtr w) (commandLen w) (commandSeed w)) s = .next t) ∨
    (∃ v, tn = .write .ctrl v ∧ v.getLsbD 0 = true ∧ s.startCommand = .next t) ∨
    (∃ r v, tn = .write r v ∧ isStart r v = false ∧ s.hostWrite r v = .next t) ∨
    (∃ r, tn = .read r ∧ t = s.hostRead r) ∨
    (∃ f w i, tn = .apply f w ∧ portClosed s f = false ∧ decodeFunc f w = .ok i ∧ exec i s = .next t) ∨
    (∃ addr b, tn = .store addr b ∧ s.platformStore addr b = .next t) ∨
    (∃ addr, tn = .release addr ∧ s.platformRelease addr = .next t) ∨
    (tn = .reset ∧ t = s.resetEvent) := by
  cases tn with
  | core =>
    obtain ⟨i, hi, he⟩ := runWord_next h
    rw [decode_phase] at hi
    cases hi
    exact .inl ⟨rfl, he⟩
  | command w => exact .inr (.inl ⟨w, rfl, h⟩)
  | commandAny w => exact .inr (.inr (.inl ⟨w, rfl, h⟩))
  | write r v =>
    simp only [doTurn] at h
    split at h
    · rename_i hs
      obtain ⟨hr, hv⟩ : r = .ctrl ∧ v.getLsbD 0 = true := by simpa [isStart] using hs
      obtain ⟨i, hi, he⟩ := runWord_next h
      subst hr
      have hd : decode (.ctrl (v.setWidth 32)) = .ok (.start ((v.setWidth 32).extractLsb' 1 31)) := by
        have : (v.setWidth 32).getLsbD 0 = true := by simpa using hv
        simp only [decode, if_pos this]
      rw [hd] at hi
      cases hi
      exact .inr (.inr (.inr (.inl ⟨v, rfl, hv, he⟩)))
    · rename_i hs
      exact .inr (.inr (.inr (.inr (.inl ⟨r, v, rfl, by simpa using hs, h⟩))))
  | read r => cases h; exact .inr (.inr (.inr (.inr (.inr (.inl ⟨r, rfl, rfl⟩)))))
  | apply f w =>
    simp only [doTurn] at h
    split at h
    · cases h
    · rename_i hb
      obtain ⟨i, hi, he⟩ := runWord_next h
      exact .inr (.inr (.inr (.inr (.inr (.inr (.inl ⟨f, w, i, rfl, by simpa using hb, hi, he⟩))))))
  | store addr b => exact .inr (.inr (.inr (.inr (.inr (.inr (.inr (.inl ⟨addr, b, rfl, h⟩)))))))
  | release addr => exact .inr (.inr (.inr (.inr (.inr (.inr (.inr (.inr (.inl ⟨addr, rfl, h⟩))))))))
  | reset => cases h; exact .inr (.inr (.inr (.inr (.inr (.inr (.inr (.inr (.inr ⟨rfl, rfl⟩))))))))

theorem step_eq (s : State) : step s = doTurn s.nextTurn.1 s.nextTurn.2 := rfl

/-- Taking a turn off the list changes nothing else. -/
theorem nextTurn_state (s : State) : s.nextTurn.2 = { s with turns := s.turns.tail } := by
  obtain ⟨⟩ := s
  rename_i turns _ _
  cases turns <;> rfl

end Sys2Proof.Machine
end

