-- ==== Sys2Proof/Laws/PerInstr.lean ====
section
/-! SUPPORT. The per-operation family EncodeFormat: the word that encode writes stands in the format of the
operation's row of spec/opcode_table.json. -/

namespace Sys2Proof.Laws

open Sys2Proof

/-- The word of an operation is in its row's format. -/
def EncodeFormat.Statement (i : Instr) : Prop := (encode i).format = i.format

theorem EncodeFormat.hash32Tiny0 (ptr : Addr) (seed : Word) : EncodeFormat.Statement (.hash32Tiny0 ptr seed) := rfl

theorem EncodeFormat.hash32Tiny14Len1to3 (ptr : Addr) (len : Len) (seed : Word) : EncodeFormat.Statement (.hash32Tiny14Len1to3 ptr len seed) := rfl

theorem EncodeFormat.hash32Tiny14Len4 (ptr : Addr) (seed : Word) : EncodeFormat.Statement (.hash32Tiny14Len4 ptr seed) := rfl

theorem EncodeFormat.hash32ShortLen5to15 (ptr : Addr) (len : Len) (seed : Word) : EncodeFormat.Statement (.hash32ShortLen5to15 ptr len seed) := rfl

theorem EncodeFormat.hash32ShortLen16 (ptr : Addr) (seed : Word) : EncodeFormat.Statement (.hash32ShortLen16 ptr seed) := rfl

theorem EncodeFormat.hash32Medium (ptr : Addr) (len : Len) (seed : Word) : EncodeFormat.Statement (.hash32Medium ptr len seed) := rfl

theorem EncodeFormat.hash32Long (ptr : Addr) (len : Len) (seed : Word) : EncodeFormat.Statement (.hash32Long ptr len seed) := rfl

theorem EncodeFormat.hash32 (ptr : Addr) (len : Len) (seed : Word) : EncodeFormat.Statement (.hash32 ptr len seed) := rfl

theorem EncodeFormat.start (reserved : BitVec 31) : EncodeFormat.Statement (.start reserved) := rfl

theorem EncodeFormat.idle : EncodeFormat.Statement (.idle) := rfl

theorem EncodeFormat.dispatch : EncodeFormat.Statement (.dispatch) := rfl

theorem EncodeFormat.tiny0 : EncodeFormat.Statement (.tiny0) := rfl

theorem EncodeFormat.tiny14 : EncodeFormat.Statement (.tiny14) := rfl

theorem EncodeFormat.smInit : EncodeFormat.Statement (.smInit) := rfl

theorem EncodeFormat.shortAbsorb : EncodeFormat.Statement (.shortAbsorb) := rfl

theorem EncodeFormat.medRound : EncodeFormat.Statement (.medRound) := rfl

theorem EncodeFormat.medTail : EncodeFormat.Statement (.medTail) := rfl

theorem EncodeFormat.smFinal : EncodeFormat.Statement (.smFinal) := rfl

theorem EncodeFormat.longInit : EncodeFormat.Statement (.longInit) := rfl

theorem EncodeFormat.longRound : EncodeFormat.Statement (.longRound) := rfl

theorem EncodeFormat.longTail : EncodeFormat.Statement (.longTail) := rfl

theorem EncodeFormat.longMerge : EncodeFormat.Statement (.longMerge) := rfl

theorem EncodeFormat.done : EncodeFormat.Statement (.done) := rfl

theorem EncodeFormat.sxA : EncodeFormat.Statement (.sxA x) := rfl

theorem EncodeFormat.sxB : EncodeFormat.Statement (.sxB x) := rfl

theorem EncodeFormat.mul16 : EncodeFormat.Statement (.mul16 x m) := rfl

theorem EncodeFormat.avalanche32Inner (x : Word) : EncodeFormat.Statement (.avalanche32Inner x) := rfl

theorem EncodeFormat.avalanche32Full (x : Word) : EncodeFormat.Statement (.avalanche32Full x) := rfl

theorem EncodeFormat.mix32Inner (h x : Word) : EncodeFormat.Statement (.mix32Inner h x) := rfl

theorem EncodeFormat.mix32Full (h x : Word) : EncodeFormat.Statement (.mix32Full h x) := rfl

theorem EncodeFormat.short32NoSeed2 (x seed2 : Word) : EncodeFormat.Statement (.short32NoSeed2 x seed2) := rfl

theorem EncodeFormat.short32Seed2 (x seed2 : Word) : EncodeFormat.Statement (.short32Seed2 x seed2) := rfl

theorem EncodeFormat.memRead1 : EncodeFormat.Statement (.memRead1 addr) := rfl

theorem EncodeFormat.memRead4 : EncodeFormat.Statement (.memRead4 addr) := rfl

theorem EncodeFormat.round : EncodeFormat.Statement (.round base intensity) := rfl

end Sys2Proof.Laws
end

