-- ==== Sys2Proof/Laws/State.lean ====
section
/-! SUPPORT. One lemma per field per named update of State: what the field holds afterwards. -/

namespace Sys2Proof.Machine

open Sys2Proof

/-! ### setPhase: `PHASE <- p` (R11) -/

@[simp] theorem State.setPhase_ptr (s : State) (p : Phase) : (s.setPhase p).ptr = s.ptr := rfl

@[simp] theorem State.setPhase_len (s : State) (p : Phase) : (s.setPhase p).len = s.len := rfl

@[simp] theorem State.setPhase_seed (s : State) (p : Phase) : (s.setPhase p).seed = s.seed := rfl

@[simp] theorem State.setPhase_ptrWritten (s : State) (p : Phase) :
    (s.setPhase p).ptrWritten = s.ptrWritten := rfl

@[simp] theorem State.setPhase_lenWritten (s : State) (p : Phase) :
    (s.setPhase p).lenWritten = s.lenWritten := rfl

@[simp] theorem State.setPhase_seedWritten (s : State) (p : Phase) :
    (s.setPhase p).seedWritten = s.seedWritten := rfl

@[simp] theorem State.setPhase_digest (s : State) (p : Phase) : (s.setPhase p).digest = s.digest := rfl

@[simp] theorem State.setPhase_phase (s : State) (p : Phase) : (s.setPhase p).phase = p := rfl

@[simp] theorem State.setPhase_x (s : State) (p : Phase) : (s.setPhase p).x = s.x := rfl

@[simp] theorem State.setPhase_a (s : State) (p : Phase) : (s.setPhase p).a = s.a := rfl

@[simp] theorem State.setPhase_acc (s : State) (p : Phase) : (s.setPhase p).acc = s.acc := rfl

@[simp] theorem State.setPhase_sum (s : State) (p : Phase) : (s.setPhase p).sum = s.sum := rfl

@[simp] theorem State.setPhase_k (s : State) (p : Phase) : (s.setPhase p).k = s.k := rfl

@[simp] theorem State.setPhase_nb (s : State) (p : Phase) : (s.setPhase p).nb = s.nb := rfl

@[simp] theorem State.setPhase_consts (s : State) (p : Phase) : (s.setPhase p).consts = s.consts := rfl

@[simp] theorem State.setPhase_mem (s : State) (p : Phase) : (s.setPhase p).mem = s.mem := rfl

@[simp] theorem State.setPhase_turns (s : State) (p : Phase) : (s.setPhase p).turns = s.turns := rfl

@[simp] theorem State.setPhase_result (s : State) (p : Phase) : (s.setPhase p).result = s.result := rfl

@[simp] theorem State.setPhase_draws (s : State) (p : Phase) : (s.setPhase p).draws = s.draws := rfl

/-! ### setResult: an answer (log 17) -/

@[simp] theorem State.setResult_ptr (s : State) (v : BitVec 64) : (s.setResult v).ptr = s.ptr := rfl

@[simp] theorem State.setResult_len (s : State) (v : BitVec 64) : (s.setResult v).len = s.len := rfl

@[simp] theorem State.setResult_seed (s : State) (v : BitVec 64) : (s.setResult v).seed = s.seed := rfl

@[simp] theorem State.setResult_ptrWritten (s : State) (v : BitVec 64) :
    (s.setResult v).ptrWritten = s.ptrWritten := rfl

@[simp] theorem State.setResult_lenWritten (s : State) (v : BitVec 64) :
    (s.setResult v).lenWritten = s.lenWritten := rfl

@[simp] theorem State.setResult_seedWritten (s : State) (v : BitVec 64) :
    (s.setResult v).seedWritten = s.seedWritten := rfl

@[simp] theorem State.setResult_digest (s : State) (v : BitVec 64) : (s.setResult v).digest = s.digest := rfl

@[simp] theorem State.setResult_phase (s : State) (v : BitVec 64) : (s.setResult v).phase = s.phase := rfl

@[simp] theorem State.setResult_x (s : State) (v : BitVec 64) : (s.setResult v).x = s.x := rfl

@[simp] theorem State.setResult_a (s : State) (v : BitVec 64) : (s.setResult v).a = s.a := rfl

@[simp] theorem State.setResult_acc (s : State) (v : BitVec 64) : (s.setResult v).acc = s.acc := rfl

@[simp] theorem State.setResult_sum (s : State) (v : BitVec 64) : (s.setResult v).sum = s.sum := rfl

@[simp] theorem State.setResult_k (s : State) (v : BitVec 64) : (s.setResult v).k = s.k := rfl

@[simp] theorem State.setResult_nb (s : State) (v : BitVec 64) : (s.setResult v).nb = s.nb := rfl

@[simp] theorem State.setResult_consts (s : State) (v : BitVec 64) : (s.setResult v).consts = s.consts := rfl

@[simp] theorem State.setResult_mem (s : State) (v : BitVec 64) : (s.setResult v).mem = s.mem := rfl

@[simp] theorem State.setResult_turns (s : State) (v : BitVec 64) : (s.setResult v).turns = s.turns := rfl

@[simp] theorem State.setResult_result (s : State) (v : BitVec 64) : (s.setResult v).result = v := rfl

@[simp] theorem State.setResult_draws (s : State) (v : BitVec 64) : (s.setResult v).draws = s.draws := rfl

/-! ### freeResult: a free answer (logs 5, 14) -/

@[simp] theorem State.freeResult_ptr (s : State) : (s.freeResult).ptr = s.ptr := rfl

@[simp] theorem State.freeResult_len (s : State) : (s.freeResult).len = s.len := rfl

@[simp] theorem State.freeResult_seed (s : State) : (s.freeResult).seed = s.seed := rfl

@[simp] theorem State.freeResult_ptrWritten (s : State) : (s.freeResult).ptrWritten = s.ptrWritten := rfl

@[simp] theorem State.freeResult_lenWritten (s : State) : (s.freeResult).lenWritten = s.lenWritten := rfl

@[simp] theorem State.freeResult_seedWritten (s : State) : (s.freeResult).seedWritten = s.seedWritten := rfl

@[simp] theorem State.freeResult_digest (s : State) : (s.freeResult).digest = s.digest := rfl

@[simp] theorem State.freeResult_phase (s : State) : (s.freeResult).phase = s.phase := rfl

@[simp] theorem State.freeResult_x (s : State) : (s.freeResult).x = s.x := rfl

@[simp] theorem State.freeResult_a (s : State) : (s.freeResult).a = s.a := rfl

@[simp] theorem State.freeResult_acc (s : State) : (s.freeResult).acc = s.acc := rfl

@[simp] theorem State.freeResult_sum (s : State) : (s.freeResult).sum = s.sum := rfl

@[simp] theorem State.freeResult_k (s : State) : (s.freeResult).k = s.k := rfl

@[simp] theorem State.freeResult_nb (s : State) : (s.freeResult).nb = s.nb := rfl

@[simp] theorem State.freeResult_consts (s : State) : (s.freeResult).consts = s.consts := rfl

@[simp] theorem State.freeResult_mem (s : State) : (s.freeResult).mem = s.mem := rfl

@[simp] theorem State.freeResult_turns (s : State) : (s.freeResult).turns = s.turns := rfl

@[simp] theorem State.freeResult_result (s : State) : (s.freeResult).result = Config.freeValue s.draws := rfl

@[simp] theorem State.freeResult_draws (s : State) : (s.freeResult).draws = s.draws + 1 := rfl

/-! ### freeResult32: a free answer of 32 bits (logs 5, 14, 25) -/

@[simp] theorem State.freeResult32_ptr (s : State) : (s.freeResult32).ptr = s.ptr := rfl

@[simp] theorem State.freeResult32_len (s : State) : (s.freeResult32).len = s.len := rfl

@[simp] theorem State.freeResult32_seed (s : State) : (s.freeResult32).seed = s.seed := rfl

@[simp] theorem State.freeResult32_ptrWritten (s : State) : (s.freeResult32).ptrWritten = s.ptrWritten := rfl

@[simp] theorem State.freeResult32_lenWritten (s : State) : (s.freeResult32).lenWritten = s.lenWritten := rfl

@[simp] theorem State.freeResult32_seedWritten (s : State) :
    (s.freeResult32).seedWritten = s.seedWritten := rfl

@[simp] theorem State.freeResult32_digest (s : State) : (s.freeResult32).digest = s.digest := rfl

@[simp] theorem State.freeResult32_phase (s : State) : (s.freeResult32).phase = s.phase := rfl

@[simp] theorem State.freeResult32_x (s : State) : (s.freeResult32).x = s.x := rfl

@[simp] theorem State.freeResult32_a (s : State) : (s.freeResult32).a = s.a := rfl

@[simp] theorem State.freeResult32_acc (s : State) : (s.freeResult32).acc = s.acc := rfl

@[simp] theorem State.freeResult32_sum (s : State) : (s.freeResult32).sum = s.sum := rfl

@[simp] theorem State.freeResult32_k (s : State) : (s.freeResult32).k = s.k := rfl

@[simp] theorem State.freeResult32_nb (s : State) : (s.freeResult32).nb = s.nb := rfl

@[simp] theorem State.freeResult32_consts (s : State) : (s.freeResult32).consts = s.consts := rfl

@[simp] theorem State.freeResult32_mem (s : State) : (s.freeResult32).mem = s.mem := rfl

@[simp] theorem State.freeResult32_turns (s : State) : (s.freeResult32).turns = s.turns := rfl

@[simp] theorem State.freeResult32_result (s : State) :
    (s.freeResult32).result = (Config.freeWord s.draws).setWidth 64 := rfl

@[simp] theorem State.freeResult32_draws (s : State) : (s.freeResult32).draws = s.draws + 1 := rfl

/-! ### drew: the count of free values (log 31) -/

@[simp] theorem State.drew_ptr (s : State) (off : Offset) (n : Nat) : (s.drew off n).ptr = s.ptr := rfl

@[simp] theorem State.drew_len (s : State) (off : Offset) (n : Nat) : (s.drew off n).len = s.len := rfl

@[simp] theorem State.drew_seed (s : State) (off : Offset) (n : Nat) : (s.drew off n).seed = s.seed := rfl

@[simp] theorem State.drew_ptrWritten (s : State) (off : Offset) (n : Nat) :
    (s.drew off n).ptrWritten = s.ptrWritten := rfl

@[simp] theorem State.drew_lenWritten (s : State) (off : Offset) (n : Nat) :
    (s.drew off n).lenWritten = s.lenWritten := rfl

@[simp] theorem State.drew_seedWritten (s : State) (off : Offset) (n : Nat) :
    (s.drew off n).seedWritten = s.seedWritten := rfl

@[simp] theorem State.drew_digest (s : State) (off : Offset) (n : Nat) :
    (s.drew off n).digest = s.digest := rfl

@[simp] theorem State.drew_phase (s : State) (off : Offset) (n : Nat) : (s.drew off n).phase = s.phase := rfl

@[simp] theorem State.drew_x (s : State) (off : Offset) (n : Nat) : (s.drew off n).x = s.x := rfl

@[simp] theorem State.drew_a (s : State) (off : Offset) (n : Nat) : (s.drew off n).a = s.a := rfl

@[simp] theorem State.drew_acc (s : State) (off : Offset) (n : Nat) : (s.drew off n).acc = s.acc := rfl

@[simp] theorem State.drew_sum (s : State) (off : Offset) (n : Nat) : (s.drew off n).sum = s.sum := rfl

@[simp] theorem State.drew_k (s : State) (off : Offset) (n : Nat) : (s.drew off n).k = s.k := rfl

@[simp] theorem State.drew_nb (s : State) (off : Offset) (n : Nat) : (s.drew off n).nb = s.nb := rfl

@[simp] theorem State.drew_consts (s : State) (off : Offset) (n : Nat) :
    (s.drew off n).consts = s.consts := rfl

@[simp] theorem State.drew_mem (s : State) (off : Offset) (n : Nat) : (s.drew off n).mem = s.mem := rfl

@[simp] theorem State.drew_turns (s : State) (off : Offset) (n : Nat) : (s.drew off n).turns = s.turns := rfl

@[simp] theorem State.drew_result (s : State) (off : Offset) (n : Nat) :
    (s.drew off n).result = s.result := rfl

@[simp] theorem State.drew_draws (s : State) (off : Offset) (n : Nat) :
    (s.drew off n).draws = if off.isNone then s.draws + n else s.draws := rfl

/-- Where the spec states the offset no free value is taken. -/
@[simp] theorem State.drew_stated (s : State) (p n : Nat) : s.drew (some p) n = s := rfl

@[simp] theorem State.drew_unstated (s : State) (n : Nat) : s.drew none n = { s with draws := s.draws + n } := rfl

/-! ### writePtr: a host write of `PTR` (R24) -/

@[simp] theorem State.writePtr_ptr (s : State) (v : Addr) : (s.writePtr v).ptr = v := rfl

@[simp] theorem State.writePtr_len (s : State) (v : Addr) : (s.writePtr v).len = s.len := rfl

@[simp] theorem State.writePtr_seed (s : State) (v : Addr) : (s.writePtr v).seed = s.seed := rfl

@[simp] theorem State.writePtr_ptrWritten (s : State) (v : Addr) : (s.writePtr v).ptrWritten = true := rfl

@[simp] theorem State.writePtr_lenWritten (s : State) (v : Addr) :
    (s.writePtr v).lenWritten = s.lenWritten := rfl

@[simp] theorem State.writePtr_seedWritten (s : State) (v : Addr) :
    (s.writePtr v).seedWritten = s.seedWritten := rfl

@[simp] theorem State.writePtr_digest (s : State) (v : Addr) : (s.writePtr v).digest = s.digest := rfl

@[simp] theorem State.writePtr_phase (s : State) (v : Addr) : (s.writePtr v).phase = s.phase := rfl

@[simp] theorem State.writePtr_x (s : State) (v : Addr) : (s.writePtr v).x = s.x := rfl

@[simp] theorem State.writePtr_a (s : State) (v : Addr) : (s.writePtr v).a = s.a := rfl

@[simp] theorem State.writePtr_acc (s : State) (v : Addr) : (s.writePtr v).acc = s.acc := rfl

@[simp] theorem State.writePtr_sum (s : State) (v : Addr) : (s.writePtr v).sum = s.sum := rfl

@[simp] theorem State.writePtr_k (s : State) (v : Addr) : (s.writePtr v).k = s.k := rfl

@[simp] theorem State.writePtr_nb (s : State) (v : Addr) : (s.writePtr v).nb = s.nb := rfl

@[simp] theorem State.writePtr_consts (s : State) (v : Addr) : (s.writePtr v).consts = s.consts := rfl

@[simp] theorem State.writePtr_mem (s : State) (v : Addr) : (s.writePtr v).mem = s.mem := rfl

@[simp] theorem State.writePtr_turns (s : State) (v : Addr) : (s.writePtr v).turns = s.turns := rfl

@[simp] theorem State.writePtr_result (s : State) (v : Addr) : (s.writePtr v).result = s.result := rfl

@[simp] theorem State.writePtr_draws (s : State) (v : Addr) : (s.writePtr v).draws = s.draws := rfl

/-! ### writeLen: a host write of `LEN` (R25) -/

@[simp] theorem State.writeLen_ptr (s : State) (v : Len) : (s.writeLen v).ptr = s.ptr := rfl

@[simp] theorem State.writeLen_len (s : State) (v : Len) : (s.writeLen v).len = v := rfl

@[simp] theorem State.writeLen_seed (s : State) (v : Len) : (s.writeLen v).seed = s.seed := rfl

@[simp] theorem State.writeLen_ptrWritten (s : State) (v : Len) :
    (s.writeLen v).ptrWritten = s.ptrWritten := rfl

@[simp] theorem State.writeLen_lenWritten (s : State) (v : Len) : (s.writeLen v).lenWritten = true := rfl

@[simp] theorem State.writeLen_seedWritten (s : State) (v : Len) :
    (s.writeLen v).seedWritten = s.seedWritten := rfl

@[simp] theorem State.writeLen_digest (s : State) (v : Len) : (s.writeLen v).digest = s.digest := rfl

@[simp] theorem State.writeLen_phase (s : State) (v : Len) : (s.writeLen v).phase = s.phase := rfl

@[simp] theorem State.writeLen_x (s : State) (v : Len) : (s.writeLen v).x = s.x := rfl

@[simp] theorem State.writeLen_a (s : State) (v : Len) : (s.writeLen v).a = s.a := rfl

@[simp] theorem State.writeLen_acc (s : State) (v : Len) : (s.writeLen v).acc = s.acc := rfl

@[simp] theorem State.writeLen_sum (s : State) (v : Len) : (s.writeLen v).sum = s.sum := rfl

@[simp] theorem State.writeLen_k (s : State) (v : Len) : (s.writeLen v).k = s.k := rfl

@[simp] theorem State.writeLen_nb (s : State) (v : Len) : (s.writeLen v).nb = s.nb := rfl

@[simp] theorem State.writeLen_consts (s : State) (v : Len) : (s.writeLen v).consts = s.consts := rfl

@[simp] theorem State.writeLen_mem (s : State) (v : Len) : (s.writeLen v).mem = s.mem := rfl

@[simp] theorem State.writeLen_turns (s : State) (v : Len) : (s.writeLen v).turns = s.turns := rfl

@[simp] theorem State.writeLen_result (s : State) (v : Len) : (s.writeLen v).result = s.result := rfl

@[simp] theorem State.writeLen_draws (s : State) (v : Len) : (s.writeLen v).draws = s.draws := rfl

/-! ### writeSeed: a host write of `SEED` (R26) -/

@[simp] theorem State.writeSeed_ptr (s : State) (v : Word) : (s.writeSeed v).ptr = s.ptr := rfl

@[simp] theorem State.writeSeed_len (s : State) (v : Word) : (s.writeSeed v).len = s.len := rfl

@[simp] theorem State.writeSeed_seed (s : State) (v : Word) : (s.writeSeed v).seed = v := rfl

@[simp] theorem State.writeSeed_ptrWritten (s : State) (v : Word) :
    (s.writeSeed v).ptrWritten = s.ptrWritten := rfl

@[simp] theorem State.writeSeed_lenWritten (s : State) (v : Word) :
    (s.writeSeed v).lenWritten = s.lenWritten := rfl

@[simp] theorem State.writeSeed_seedWritten (s : State) (v : Word) : (s.writeSeed v).seedWritten = true := rfl

@[simp] theorem State.writeSeed_digest (s : State) (v : Word) : (s.writeSeed v).digest = s.digest := rfl

@[simp] theorem State.writeSeed_phase (s : State) (v : Word) : (s.writeSeed v).phase = s.phase := rfl

@[simp] theorem State.writeSeed_x (s : State) (v : Word) : (s.writeSeed v).x = s.x := rfl

@[simp] theorem State.writeSeed_a (s : State) (v : Word) : (s.writeSeed v).a = s.a := rfl

@[simp] theorem State.writeSeed_acc (s : State) (v : Word) : (s.writeSeed v).acc = s.acc := rfl

@[simp] theorem State.writeSeed_sum (s : State) (v : Word) : (s.writeSeed v).sum = s.sum := rfl

@[simp] theorem State.writeSeed_k (s : State) (v : Word) : (s.writeSeed v).k = s.k := rfl

@[simp] theorem State.writeSeed_nb (s : State) (v : Word) : (s.writeSeed v).nb = s.nb := rfl

@[simp] theorem State.writeSeed_consts (s : State) (v : Word) : (s.writeSeed v).consts = s.consts := rfl

@[simp] theorem State.writeSeed_mem (s : State) (v : Word) : (s.writeSeed v).mem = s.mem := rfl

@[simp] theorem State.writeSeed_turns (s : State) (v : Word) : (s.writeSeed v).turns = s.turns := rfl

@[simp] theorem State.writeSeed_result (s : State) (v : Word) : (s.writeSeed v).result = s.result := rfl

@[simp] theorem State.writeSeed_draws (s : State) (v : Word) : (s.writeSeed v).draws = s.draws := rfl

/-! ### writeOperands: the three operand writes (R80) -/

@[simp] theorem State.writeOperands_ptr (s : State) (p : Addr) (l : Len) (d : Word) :
    (s.writeOperands p l d).ptr = p := rfl

@[simp] theorem State.writeOperands_len (s : State) (p : Addr) (l : Len) (d : Word) :
    (s.writeOperands p l d).len = l := rfl

@[simp] theorem State.writeOperands_seed (s : State) (p : Addr) (l : Len) (d : Word) :
    (s.writeOperands p l d).seed = d := rfl

@[simp] theorem State.writeOperands_ptrWritten (s : State) (p : Addr) (l : Len) (d : Word) :
    (s.writeOperands p l d).ptrWritten = true := rfl

@[simp] theorem State.writeOperands_lenWritten (s : State) (p : Addr) (l : Len) (d : Word) :
    (s.writeOperands p l d).lenWritten = true := rfl

@[simp] theorem State.writeOperands_seedWritten (s : State) (p : Addr) (l : Len) (d : Word) :
    (s.writeOperands p l d).seedWritten = true := rfl

@[simp] theorem State.writeOperands_digest (s : State) (p : Addr) (l : Len) (d : Word) :
    (s.writeOperands p l d).digest = s.digest := rfl

@[simp] theorem State.writeOperands_phase (s : State) (p : Addr) (l : Len) (d : Word) :
    (s.writeOperands p l d).phase = s.phase := rfl

@[simp] theorem State.writeOperands_x (s : State) (p : Addr) (l : Len) (d : Word) :
    (s.writeOperands p l d).x = s.x := rfl

@[simp] theorem State.writeOperands_a (s : State) (p : Addr) (l : Len) (d : Word) :
    (s.writeOperands p l d).a = s.a := rfl

@[simp] theorem State.writeOperands_acc (s : State) (p : Addr) (l : Len) (d : Word) :
    (s.writeOperands p l d).acc = s.acc := rfl

@[simp] theorem State.writeOperands_sum (s : State) (p : Addr) (l : Len) (d : Word) :
    (s.writeOperands p l d).sum = s.sum := rfl

@[simp] theorem State.writeOperands_k (s : State) (p : Addr) (l : Len) (d : Word) :
    (s.writeOperands p l d).k = s.k := rfl

@[simp] theorem State.writeOperands_nb (s : State) (p : Addr) (l : Len) (d : Word) :
    (s.writeOperands p l d).nb = s.nb := rfl

@[simp] theorem State.writeOperands_consts (s : State) (p : Addr) (l : Len) (d : Word) :
    (s.writeOperands p l d).consts = s.consts := rfl

@[simp] theorem State.writeOperands_mem (s : State) (p : Addr) (l : Len) (d : Word) :
    (s.writeOperands p l d).mem = s.mem := rfl

@[simp] theorem State.writeOperands_turns (s : State) (p : Addr) (l : Len) (d : Word) :
    (s.writeOperands p l d).turns = s.turns := rfl

@[simp] theorem State.writeOperands_result (s : State) (p : Addr) (l : Len) (d : Word) :
    (s.writeOperands p l d).result = s.result := rfl

@[simp] theorem State.writeOperands_draws (s : State) (p : Addr) (l : Len) (d : Word) :
    (s.writeOperands p l d).draws = s.draws := rfl

/-! ### accept: an accepted START (R102) -/

@[simp] theorem State.accept_ptr (s : State) : (s.accept).ptr = s.ptr := rfl

@[simp] theorem State.accept_len (s : State) : (s.accept).len = s.len := rfl

@[simp] theorem State.accept_seed (s : State) : (s.accept).seed = s.seed := rfl

@[simp] theorem State.accept_ptrWritten (s : State) : (s.accept).ptrWritten = s.ptrWritten := rfl

@[simp] theorem State.accept_lenWritten (s : State) : (s.accept).lenWritten = s.lenWritten := rfl

@[simp] theorem State.accept_seedWritten (s : State) : (s.accept).seedWritten = s.seedWritten := rfl

@[simp] theorem State.accept_digest (s : State) : (s.accept).digest = Config.freeWord s.draws := rfl

@[simp] theorem State.accept_phase (s : State) : (s.accept).phase = .dispatch := rfl

@[simp] theorem State.accept_x (s : State) : (s.accept).x = s.x := rfl

@[simp] theorem State.accept_a (s : State) : (s.accept).a = s.a := rfl

@[simp] theorem State.accept_acc (s : State) : (s.accept).acc = s.acc := rfl

@[simp] theorem State.accept_sum (s : State) : (s.accept).sum = s.sum := rfl

@[simp] theorem State.accept_k (s : State) : (s.accept).k = s.k := rfl

@[simp] theorem State.accept_nb (s : State) : (s.accept).nb = s.nb := rfl

@[simp] theorem State.accept_consts (s : State) : (s.accept).consts = s.consts := rfl

@[simp] theorem State.accept_mem (s : State) : (s.accept).mem = s.mem := rfl

@[simp] theorem State.accept_turns (s : State) : (s.accept).turns = s.turns := rfl

@[simp] theorem State.accept_result (s : State) : (s.accept).result = s.result := rfl

@[simp] theorem State.accept_draws (s : State) : (s.accept).draws = s.draws + 1 := rfl

/-! ### discardWorking: the working registers made unspecified (R104) -/

@[simp] theorem State.discardWorking_ptr (s : State) : (s.discardWorking).ptr = s.ptr := rfl

@[simp] theorem State.discardWorking_len (s : State) : (s.discardWorking).len = s.len := rfl

@[simp] theorem State.discardWorking_seed (s : State) : (s.discardWorking).seed = s.seed := rfl

@[simp] theorem State.discardWorking_ptrWritten (s : State) :
    (s.discardWorking).ptrWritten = s.ptrWritten := rfl

@[simp] theorem State.discardWorking_lenWritten (s : State) :
    (s.discardWorking).lenWritten = s.lenWritten := rfl

@[simp] theorem State.discardWorking_seedWritten (s : State) :
    (s.discardWorking).seedWritten = s.seedWritten := rfl

@[simp] theorem State.discardWorking_digest (s : State) : (s.discardWorking).digest = s.digest := rfl

@[simp] theorem State.discardWorking_phase (s : State) : (s.discardWorking).phase = s.phase := rfl

@[simp] theorem State.discardWorking_x (s : State) : (s.discardWorking).x = Config.freeWord s.draws := rfl

@[simp] theorem State.discardWorking_a (s : State) :
    (s.discardWorking).a = Vector.ofFn fun i => Config.freeWord (s.draws + 1 + i.val) := rfl

@[simp] theorem State.discardWorking_acc (s : State) :
    (s.discardWorking).acc = Vector.ofFn fun i => Config.freeWord (s.draws + 5 + i.val) := rfl

@[simp] theorem State.discardWorking_sum (s : State) :
    (s.discardWorking).sum = Config.freeWord (s.draws + 37) := rfl

@[simp] theorem State.discardWorking_k (s : State) :
    (s.discardWorking).k = Config.freeValue (s.draws + 38) := rfl

@[simp] theorem State.discardWorking_nb (s : State) :
    (s.discardWorking).nb = Config.freeValue (s.draws + 39) := rfl

@[simp] theorem State.discardWorking_consts (s : State) : (s.discardWorking).consts = s.consts := rfl

@[simp] theorem State.discardWorking_mem (s : State) : (s.discardWorking).mem = s.mem := rfl

@[simp] theorem State.discardWorking_turns (s : State) : (s.discardWorking).turns = s.turns := rfl

@[simp] theorem State.discardWorking_result (s : State) : (s.discardWorking).result = s.result := rfl

@[simp] theorem State.discardWorking_draws (s : State) : (s.discardWorking).draws = s.draws + 40 := rfl

/-! ### finish: the end of a command (R29, R104) -/

@[simp] theorem State.finish_ptr (s : State) (d : Word) : (s.finish d).ptr = s.ptr := rfl

@[simp] theorem State.finish_len (s : State) (d : Word) : (s.finish d).len = s.len := rfl

@[simp] theorem State.finish_seed (s : State) (d : Word) : (s.finish d).seed = s.seed := rfl

@[simp] theorem State.finish_ptrWritten (s : State) (d : Word) : (s.finish d).ptrWritten = s.ptrWritten := rfl

@[simp] theorem State.finish_lenWritten (s : State) (d : Word) : (s.finish d).lenWritten = s.lenWritten := rfl

@[simp] theorem State.finish_seedWritten (s : State) (d : Word) :
    (s.finish d).seedWritten = s.seedWritten := rfl

@[simp] theorem State.finish_digest (s : State) (d : Word) : (s.finish d).digest = d := rfl

@[simp] theorem State.finish_phase (s : State) (d : Word) : (s.finish d).phase = .done := rfl

@[simp] theorem State.finish_x (s : State) (d : Word) : (s.finish d).x = Config.freeWord s.draws := rfl

@[simp] theorem State.finish_a (s : State) (d : Word) :
    (s.finish d).a = Vector.ofFn fun i => Config.freeWord (s.draws + 1 + i.val) := rfl

@[simp] theorem State.finish_acc (s : State) (d : Word) :
    (s.finish d).acc = Vector.ofFn fun i => Config.freeWord (s.draws + 5 + i.val) := rfl

@[simp] theorem State.finish_sum (s : State) (d : Word) :
    (s.finish d).sum = Config.freeWord (s.draws + 37) := rfl

@[simp] theorem State.finish_k (s : State) (d : Word) :
    (s.finish d).k = Config.freeValue (s.draws + 38) := rfl

@[simp] theorem State.finish_nb (s : State) (d : Word) :
    (s.finish d).nb = Config.freeValue (s.draws + 39) := rfl

@[simp] theorem State.finish_consts (s : State) (d : Word) : (s.finish d).consts = s.consts := rfl

@[simp] theorem State.finish_mem (s : State) (d : Word) : (s.finish d).mem = s.mem := rfl

@[simp] theorem State.finish_turns (s : State) (d : Word) : (s.finish d).turns = s.turns := rfl

@[simp] theorem State.finish_result (s : State) (d : Word) : (s.finish d).result = s.result := rfl

@[simp] theorem State.finish_draws (s : State) (d : Word) : (s.finish d).draws = s.draws + 40 := rfl

/-! ### resetEvent: reset (R200) -/

@[simp] theorem State.resetEvent_ptr (s : State) : (s.resetEvent).ptr = Config.freeValue (s.draws + 40) := rfl

@[simp] theorem State.resetEvent_len (s : State) : (s.resetEvent).len = Config.freeValue (s.draws + 41) := rfl

@[simp] theorem State.resetEvent_seed (s : State) :
    (s.resetEvent).seed = Config.freeWord (s.draws + 42) := rfl

@[simp] theorem State.resetEvent_ptrWritten (s : State) : (s.resetEvent).ptrWritten = false := rfl

@[simp] theorem State.resetEvent_lenWritten (s : State) : (s.resetEvent).lenWritten = false := rfl

@[simp] theorem State.resetEvent_seedWritten (s : State) : (s.resetEvent).seedWritten = false := rfl

@[simp] theorem State.resetEvent_digest (s : State) :
    (s.resetEvent).digest = Config.freeWord (s.draws + 43) := rfl

@[simp] theorem State.resetEvent_phase (s : State) : (s.resetEvent).phase = .idle := rfl

@[simp] theorem State.resetEvent_x (s : State) : (s.resetEvent).x = Config.freeWord s.draws := rfl

@[simp] theorem State.resetEvent_a (s : State) :
    (s.resetEvent).a = Vector.ofFn fun i => Config.freeWord (s.draws + 1 + i.val) := rfl

@[simp] theorem State.resetEvent_acc (s : State) :
    (s.resetEvent).acc = Vector.ofFn fun i => Config.freeWord (s.draws + 5 + i.val) := rfl

@[simp] theorem State.resetEvent_sum (s : State) : (s.resetEvent).sum = Config.freeWord (s.draws + 37) := rfl

@[simp] theorem State.resetEvent_k (s : State) : (s.resetEvent).k = Config.freeValue (s.draws + 38) := rfl

@[simp] theorem State.resetEvent_nb (s : State) : (s.resetEvent).nb = Config.freeValue (s.draws + 39) := rfl

@[simp] theorem State.resetEvent_consts (s : State) : (s.resetEvent).consts = s.consts := rfl

@[simp] theorem State.resetEvent_mem (s : State) : (s.resetEvent).mem = s.mem := rfl

@[simp] theorem State.resetEvent_turns (s : State) : (s.resetEvent).turns = s.turns := rfl

@[simp] theorem State.resetEvent_result (s : State) : (s.resetEvent).result = s.result := rfl

@[simp] theorem State.resetEvent_draws (s : State) : (s.resetEvent).draws = s.draws + 44 := rfl

end Sys2Proof.Machine
end

