-- ==== Sys2Proof/Tests/Slice0.lean ====
section
/-! SUPPORT. Tests on fixed values, and for each statement with hypotheses a witness that meets them. The
expected digests and intermediate values are those of spec/95_test_vectors.md, under its test configuration
`CFG_TEST`; `SHORT32` has no value in the model, so a tiny digest is compared as an application of it. -/

namespace Sys2Proof.Tests

open Sys2Proof Sys2Proof.Machine

set_option maxRecDepth 100000

/-! ### Helpers -/

/-- `CONST` of `CFG_TEST` (spec/95 section 2). -/
def testConsts : Consts where
  prime := #v[0xFFFFFFFB, 0x7FFFFFFF, 0x00010001, 0x0000FFF1]
  m1 := 0xA3B1C5D7
  m2 := 0x1F3D5B79
  m3 := 0x89ABCDEF
  m4 := 0x13579BDF
  accInit := Vector.ofFn fun i => BitVec.ofNat 32 ((i.val + 1) * 0x01234567)

/-- `n` readable bytes from `base` on, byte `i` of them `first + i` modulo 256: `ramp` of spec/95. -/
def ramp (base first : Nat) : Nat → Memory
  | 0 => []
  | n + 1 => ramp base first n ++ [(base + n, BitVec.ofNat 8 (first + n))]

/-- An idle core with operands, over `n` readable bytes from `PTR` on. -/
def onRamp (n : Nat) (len : Len) (seed : Word) : State :=
  { State.reset with
    consts := testConsts
    mem := ramp 0x1000 0 n
    ptr := 0x1000
    len := len
    seed := seed
    ptrWritten := true
    lenWritten := true
    seedWritten := true }

/-- The same with the bytes `11 22 33 44`. -/
def onBytes (len : Len) (seed : Word) : State :=
  { onRamp 0 len seed with mem := [(0x1000, 0x11), (0x1001, 0x22), (0x1002, 0x33), (0x1003, 0x44)] }

/-- The next state, if there is one. -/
def nextOf : Host.Outcome State Fault Refusal → Option State
  | .next s => some s
  | .fault _ => none
  | .refused _ => none

/-- Why it is stuck, if it is. -/
def faultOf : Host.Outcome State Fault Refusal → Option Fault
  | .next _ => none
  | .fault f => some f
  | .refused _ => none

/-- The digest after an operation. -/
def digestOf (o : Host.Outcome State Fault Refusal) : Option Word := (nextOf o).map (·.digest)

/-- The answer after an operation. -/
def resultOf (o : Host.Outcome State Fault Refusal) : Option (BitVec 64) := (nextOf o).map (·.result)

/-! ### Well-formedness: each range check refuses both sides -/

theorem test_wellFormed_len1to3 :
    (Instr.hash32Tiny14Len1to3 0 0 0).wellFormed = false ∧ (Instr.hash32Tiny14Len1to3 0 1 0).wellFormed = true ∧
    (Instr.hash32Tiny14Len1to3 0 3 0).wellFormed = true ∧ (Instr.hash32Tiny14Len1to3 0 4 0).wellFormed = false := by
  decide

theorem test_wellFormed_len5to15 :
    (Instr.hash32ShortLen5to15 0 4 0).wellFormed = false ∧ (Instr.hash32ShortLen5to15 0 5 0).wellFormed = true ∧
    (Instr.hash32ShortLen5to15 0 15 0).wellFormed = true ∧
    (Instr.hash32ShortLen5to15 0 16 0).wellFormed = false := by
  decide

theorem test_wellFormed_medium :
    (Instr.hash32Medium 0 16 0).wellFormed = false ∧ (Instr.hash32Medium 0 17 0).wellFormed = true ∧
    (Instr.hash32Medium 0 127 0).wellFormed = true ∧ (Instr.hash32Medium 0 128 0).wellFormed = false := by
  decide

theorem test_wellFormed_long :
    (Instr.hash32Long 0 127 0).wellFormed = false ∧ (Instr.hash32Long 0 128 0).wellFormed = true ∧
    (Instr.hash32Long 0 0xFFFFFFFFFFFFFFFF 0).wellFormed = true := by
  decide

/-- A row outside its range runs nothing. -/
theorem test_row_outside_its_range :
    exec (.hash32Medium 0x1000 16 0) (onRamp 17 17 0) = .refused .lengthOutsideRow := by rfl

/-! ### Decoding: words written out from the spec's encodings, one for every constructor -/

/-- Command words `seed : len : ptr` (R80, R82), those of spec/95 P1 and P2 where it has one. -/
theorem test_decode_commands :
    decode (.cmd 0x0000000000000000000000000000000000001000#160) = .ok (.hash32Tiny0 0x1000 0) ∧
    decode (.cmd 0x17EF211A000000000000000300000000000010FF#160) =
      .ok (.hash32Tiny14Len1to3 0x10FF 3 0x17EF211A) ∧
    decode (.cmd 0x0000000000000000000000040000000000001000#160) = .ok (.hash32Tiny14Len4 0x1000 0) ∧
    decode (.cmd 0x3D6977F800000000000000090000000000001001#160) =
      .ok (.hash32ShortLen5to15 0x1001 9 0x3D6977F8) ∧
    decode (.cmd 0x0000000000000000000000100000000000001000#160) = .ok (.hash32ShortLen16 0x1000 0) ∧
    decode (.cmd 0xFFFFFFFF00000000000000140000000000001003#160) = .ok (.hash32Medium 0x1003 20 0xFFFFFFFF) ∧
    decode (.cmd 0xB6589493000000000000012C0000000000001007#160) = .ok (.hash32Long 0x1007 300 0xB6589493) ∧
    decode (.cmdAny 0xB6589493000000000000012C0000000000001007#160) = .ok (.hash32 0x1007 300 0xB6589493) := by
  decide

/-- A write to `CTRL` (R27): bit 0 alone matters. -/
theorem test_decode_start :
    decode (.ctrl 0x00000001#32) = .ok (.start 0) ∧ decode (.ctrl 0x80000001#32) = .ok (.start 0x40000000) ∧
    decode (.ctrl 0xFFFFFFFE#32) = .error .startBitClear := by
  decide

/-- The codes of `PHASE` (R87), and the two that stand for nothing (R88). -/
theorem test_decode_phases :
    decode (.phase 0x0#4) = .ok .idle ∧ decode (.phase 0x1#4) = .ok .dispatch ∧
    decode (.phase 0x2#4) = .ok .tiny0 ∧ decode (.phase 0x3#4) = .ok .tiny14 ∧
    decode (.phase 0x4#4) = .ok .smInit ∧ decode (.phase 0x5#4) = .ok .shortAbsorb ∧
    decode (.phase 0x6#4) = .ok .medRound ∧ decode (.phase 0x7#4) = .ok .medTail ∧
    decode (.phase 0x8#4) = .ok .smFinal ∧ decode (.phase 0x9#4) = .ok .longInit ∧
    decode (.phase 0xA#4) = .ok .longRound ∧ decode (.phase 0xB#4) = .ok .longTail ∧
    decode (.phase 0xC#4) = .ok .longMerge ∧ decode (.phase 0xD#4) = .ok .done ∧
    decode (.phase 0xE#4) = .error (.unusedPhaseCode 14) ∧ decode (.phase 0xF#4) = .error (.unusedPhaseCode 15) := by
  decide

/-- Function words: selector bits of R85 and R86, the rest of the layout is the model's (log 18). -/
theorem test_decode_functions :
    decode (.func .sxA 0x000000001234567800000000#96) = .ok (.sxA 0x12345678) ∧
    decode (.func .sxB 0x000000001234567800000000#96) = .ok (.sxB 0x12345678) ∧
    decode (.func .mul16 0x89ABCDEF1234567800000000#96) = .ok (.mul16 0x12345678 0x89ABCDEF) ∧
    decode (.func .avalanche32 0x000000001234567800000000#96) = .ok (.avalanche32Inner 0x12345678) ∧
    decode (.func .avalanche32 0x000000001234567800000001#96) = .ok (.avalanche32Full 0x12345678) ∧
    decode (.func .mix32 0x03020100FFFFFFFB00000000#96) = .ok (.mix32Inner 0xFFFFFFFB 0x03020100) ∧
    decode (.func .mix32 0x03020100FFFFFFFB00000001#96) = .ok (.mix32Full 0xFFFFFFFB 0x03020100) ∧
    decode (.func .short32 0x9ABCDEF01234567800000000#96) = .ok (.short32NoSeed2 0x12345678 0x9ABCDEF0) ∧
    decode (.func .short32 0x9ABCDEF01234567800000001#96) = .ok (.short32Seed2 0x12345678 0x9ABCDEF0) ∧
    decode (.func .memRead1 0x000000000000100100000000#96) = .ok (.memRead1 0x1001) ∧
    decode (.func .memRead4 0x000000000000100100000000#96) = .ok (.memRead4 0x1001) ∧
    decode (.func .round 0x000000000000008000000001#96) = .ok (.round 128 .full) ∧
    decode (.func .sxA 0x000000011234567800000000#96) = .error .strayBits ∧
    decode (.func .mix32 0x03020100FFFFFFFB00000002#96) = .error .strayBits := by
  decide

/-- Table words as the host gives them. -/
theorem test_decode_table_words :
    decodeTableWord 8 0x9 = some .longInit ∧ decodeTableWord 32 0x1 = some (.start 0) ∧
    decodeTableWord 160 0x0000000000000000000000100000000000001000 = some (.hash32ShortLen16 0x1000 0) ∧
    decodeTableWord 8 0xE = none := by
  decide

/-! ### The command (spec/95 sections 4.6 to 4.9 and P2) -/

/-- Section 4.6: `X = 0xFFFFFFFC` for the empty input with seed 1. -/
theorem test_hash32Tiny0 :
    digestOf (exec (.hash32Tiny0 0x1000 1) (onRamp 0 0 0)) =
      some (Config.short32Plain 0xA3B1C5D7 0x1F3D5B79 0xFFFFFFFC) := by rfl

/-- Section 4.6: `X = 0x3311EED3`, `seed2 = 3` for `11 22 33` with seed 0. -/
theorem test_hash32Tiny14Len1to3 :
    digestOf (exec (.hash32Tiny14Len1to3 0x1000 3 0) (onBytes 0 0)) =
      some (~~~ Config.short32Keyed 0xA3B1C5D7 0x1F3D5B79 0x3311EED3 0x00000003) := by rfl

/-- Section 4.6: `X = 0x451220C6`, `seed2 = 0x01020300` for `11 22 33 44` with seed `0x01020304`. -/
theorem test_hash32Tiny14Len4 :
    digestOf (exec (.hash32Tiny14Len4 0x1000 0x01020304) (onBytes 0 0)) =
      some (~~~ Config.short32Keyed 0xA3B1C5D7 0x1F3D5B79 0x451220C6 0x01020300) := by rfl

theorem test_hash32ShortLen5to15 :
    digestOf (exec (.hash32ShortLen5to15 0x1000 5 0) (onRamp 5 0 0)) = some 0x0C4725B5 ∧
    digestOf (exec (.hash32ShortLen5to15 0x1000 13 1) (onRamp 13 0 0)) = some 0x4149C91E := by decide +kernel

theorem test_hash32ShortLen16 :
    digestOf (exec (.hash32ShortLen16 0x1000 0xFFFFFFFF) (onRamp 16 0 0)) = some 0x33407135 := by decide +kernel

/-- `ramp(33)` with seed 2, and P2 command 1 at a misaligned `PTR`. -/
theorem test_hash32Medium :
    digestOf (exec (.hash32Medium 0x1000 33 2) (onRamp 33 0 0)) = some 0xEB28E5CE ∧
    digestOf (exec (.hash32Medium 0x1003 20 0xFFFFFFFF) (onRamp 33 0 0)) = some 0x3D6977F8 := by decide +kernel

/-- `ramp(128)` with seed 1. -/
theorem test_hash32Long :
    digestOf (exec (.hash32Long 0x1000 128 1) (onRamp 128 0 0)) = some 0x5B7D4ECE := by decide +kernel

/-- The digest is also what the command answers; `ramp(7)` with seed `0xFFFFFFFF`. -/
theorem test_hash32 :
    (nextOf (exec (.hash32 0x1000 7 0xFFFFFFFF) (onRamp 7 0 0))).map (fun t => (t.digest, t.result, t.phase)) =
      some (0x59F8B2BE, 0x59F8B2BE, .done) := by decide +kernel

/-- A buffer that is not readable to its end: no digest. -/
theorem test_hash32_unreadable :
    faultOf (exec (.hash32 0x1000 7 0) (onRamp 6 0 0)) = some (.unreadable 0x1006) := by decide +kernel

/-! ### The sequencer operations -/

/-- Reserved bits of `CTRL` are ignored (R27); `STATUS` is `BUSY` (R28). -/
theorem test_start :
    (nextOf (exec (.start 0x7FFFFFFF) (onRamp 5 5 0))).map (fun t => (t.phase, t.status)) =
      some (.dispatch, 1) := by decide

/-- Not accepted: a wrapping buffer (U3), and an operand not written since reset (U7). -/
theorem test_start_refused :
    exec (.start 0) { onRamp 0 5 0 with ptr := 0xFFFFFFFFFFFFFFFC } = .refused .bufferWraps ∧
    exec (.start 0) State.reset = .refused .operandUnwritten := by exact ⟨rfl, rfl⟩

theorem test_idle : exec .idle State.reset = .next State.reset := by rfl

theorem test_done :
    exec .done { State.reset with phase := .done } = .next { State.reset with phase := .done } := by rfl

/-- Section 4.5: the classes at their boundaries. -/
theorem test_dispatch :
    [0, 1, 4, 5, 16, 17, 127, 128, 0x100000000].map
        (fun len => (nextOf (exec .dispatch (onRamp 0 len 0))).map (·.phase)) =
      [some .tiny0, some .tiny14, some .tiny14, some .smInit, some .smInit, some .smInit, some .smInit,
        some .longInit, some .longInit] := by decide

theorem test_tiny0 :
    digestOf (exec .tiny0 (onRamp 0 0 0xFFFFFFFF)) =
      some (Config.short32Plain 0xA3B1C5D7 0x1F3D5B79 0xFFFFFFFA) := by rfl

theorem test_tiny14 :
    digestOf (exec .tiny14 (onBytes 2 0)) =
      some (~~~ Config.short32Keyed 0xA3B1C5D7 0x1F3D5B79 0x2211EED3 0x00000002) := by rfl

/-- Section 4.7, fourth case, and section 4.8, `ramp(33)`. -/
theorem test_smInit :
    (nextOf (exec .smInit (onRamp 0 16 0xFFFFFFFF))).map (fun t => (t.a, t.phase)) =
      some (#v[0xFFFFFFFA, 0x7FFFFFFE, 0x00010000, 0x0000FFF0], .shortAbsorb) ∧
    (nextOf (exec .smInit (onRamp 0 33 2))).map (fun t => (t.a, t.k, t.nb, t.phase)) =
      some (#v[0xFFFFFFFD, 0x80000001, 0x00010003, 0x0000FFF3], 0, 2, .medRound) := by decide +kernel

/-- Section 4.7, third case. -/
theorem test_shortAbsorb :
    (nextOf (exec .shortAbsorb
      { onRamp 13 13 1 with a := #v[0xFFFFFFFC, 0x80000000, 0x00010002, 0x0000FFF2] })).map (·.a) =
      some #v[0x2D492834, 0x0D0DD750, 0xA6AC932C, 0x293F71A3] := by decide +kernel

/-- Section 4.8, `ramp(33)`, the last round. -/
theorem test_medRound :
    (nextOf (exec .medRound { onRamp 33 33 2 with
      a := #v[0x689BC6CB, 0x7401295E, 0xE33ED1B2, 0xA0A33F21], k := 1, nb := 2 })).map
        (fun t => (t.a, t.k, t.phase)) =
      some (#v[0xCAB4BF46, 0x5C55C385, 0xC8ED2A3B, 0x58EF98C5], 2, .medTail) := by decide +kernel

/-- P4: the round of block 5 is stuck at address `0x1258`. -/
theorem test_medRound_stuck :
    faultOf (exec .medRound { onRamp 0 100 0 with mem := ramp 0x1200 0 88, ptr := 0x1200, k := 5, nb := 6 }) =
      some (.unreadable 0x1258) := by decide +kernel

/-- Section 4.8, `ramp(33)`. -/
theorem test_medTail :
    (nextOf (exec .medTail { onRamp 33 33 2 with
      a := #v[0xCAB4BF46, 0x5C55C385, 0xC8ED2A3B, 0x58EF98C5] })).map (fun t => (t.a, t.phase)) =
      some (#v[0xA60AE66F, 0x8A7EDFE3, 0x240473CB, 0x1878A075], .smFinal) := by decide +kernel

/-- Section 4.8, `ramp(33)`, and section 4.7, second case. -/
theorem test_smFinal :
    digestOf (exec .smFinal { onRamp 0 33 2 with a := #v[0xA60AE66F, 0x8A7EDFE3, 0x240473CB, 0x1878A075] }) =
      some 0xEB28E5CE ∧
    digestOf (exec .smFinal { onRamp 0 8 0 with a := #v[0xFFF668AF, 0x6E1633F2, 0x3E6C6326, 0x801FC2B2] }) =
      some 0x106B73CB := by decide +kernel

/-- Section 4.9, `ramp(257)` with seed 1, and the length without a full round. -/
theorem test_longInit :
    (nextOf (exec .longInit (onRamp 0 257 1))).map (fun t => (t.acc[0], t.acc[31], t.nb, t.k, t.phase)) =
      some (0x01234568, 0x2468ACE1, 2, 0, .longRound) ∧
    (nextOf (exec .longInit (onRamp 0 128 0))).map (fun t => (t.nb, t.phase)) = some (0, .longTail) := by
  decide +kernel

/-- Section 4.9, `ramp(257)` with seed 1, block 0. -/
theorem test_longRound :
    (nextOf (exec .longRound { onRamp 128 257 1 with
      acc := seedLanes testConsts.accInit 1, k := 0, nb := 2 })).map
        (fun t => (t.acc[0], t.acc[31], t.k, t.phase)) =
      some (0xEB52A076, 0x05098562, 1, .longRound) := by decide +kernel

/-- Section 4.9, `ramp(128)` with seed 0. -/
theorem test_longTail :
    (nextOf (exec .longTail { onRamp 128 128 0 with acc := testConsts.accInit })).map
        (fun t => (t.acc[0], t.acc[20], t.phase)) =
      some (0x2499FA54, 0xA1DF3702, .longMerge) := by decide +kernel

/-- Section 4.9: `ACC[i] = ACC_INIT[i] ^ i` and lengths with a carry term. -/
theorem test_longMerge :
    let acc : Vector Word 32 := Vector.ofFn fun i => testConsts.accInit[i] ^^^ BitVec.ofNat 32 i
    digestOf (exec .longMerge { onRamp 0 0x0000000100000080 0 with acc := acc }) = some 0x243BF649 ∧
    digestOf (exec .longMerge { onRamp 0 0xFFFFFFFF00000080 0 with acc := acc }) = some 0x2AA75F7C := by
  decide +kernel

/-- Lengths at which a rule forms `LEN - c` below 0 (log 31): the operations run, and all that does not come from the
open value is as their rules say. -/
theorem test_unstated_lengths :
    (nextOf (exec .longInit (onRamp 0 0 1))).map (fun t => (t.acc[0], t.acc[31], t.k)) =
      some (0x01234568, 0x2468ACE1, 0) ∧
    (nextOf (exec .medTail (onRamp 0 15 0))).map (fun t => (t.phase, t.draws)) = some (.smFinal, 4) ∧
    (nextOf (exec .longTail (onRamp 0 127 0))).map (fun t => (t.phase, t.draws)) = some (.longMerge, 32) ∧
    (nextOf (exec .shortAbsorb (onBytes 3 0))).map (fun t => (t.a[0], t.phase)) =
      some (mix32 testConsts 0 0x44332211 .full, .smFinal) :=
  ⟨rfl, rfl, rfl, rfl⟩

/-! ### The primitives (spec/95 sections 4.1 to 4.4) -/

theorem test_sxA : resultOf (exec (.sxA 0xDEADBEEF) (onRamp 0 0 0)) = some 0xDE7315A4 := by decide

theorem test_sxB : resultOf (exec (.sxB 0xDEADBEEF) (onRamp 0 0 0)) = some 0x04FE1592 := by decide

theorem test_mul16 :
    resultOf (exec (.mul16 0x0002FFFF 0xFFFF0002) (onRamp 0 0 0)) = some 0xFFFEFFFE ∧
    resultOf (exec (.mul16 0xDEADBEEF 0xA3B1C5D7) (onRamp 0 0 0)) = some 0x1C9D45B9 := by decide

theorem test_avalanche32Inner :
    resultOf (exec (.avalanche32Inner 0xDEADBEEF) (onRamp 0 0 0)) = some 0xCE750374 := by decide +kernel

theorem test_avalanche32Full :
    resultOf (exec (.avalanche32Full 0xDEADBEEF) (onRamp 0 0 0)) = some 0xCEBB7004 := by decide +kernel

theorem test_mix32Inner :
    resultOf (exec (.mix32Inner 0x7FFFFFFF 0x03020100) (onRamp 0 0 0)) = some 0xF90ACAED := by decide +kernel

theorem test_mix32Full :
    resultOf (exec (.mix32Full 0x7FFFFFFF 0x03020100) (onRamp 0 0 0)) = some 0xF9F3C7EF := by decide +kernel

theorem test_short32NoSeed2 :
    resultOf (exec (.short32NoSeed2 0x12345678 0x9ABCDEF0) (onRamp 0 0 0)) =
      some ((Config.short32Plain 0xA3B1C5D7 0x1F3D5B79 0x12345678).setWidth 64) := by rfl

theorem test_short32Seed2 :
    resultOf (exec (.short32Seed2 0x12345678 0x9ABCDEF0) (onRamp 0 0 0)) =
      some ((Config.short32Keyed 0xA3B1C5D7 0x1F3D5B79 0x12345678 0x9ABCDEF0).setWidth 64) := by rfl

theorem test_memRead1 : resultOf (exec (.memRead1 0x1003) (onBytes 0 0)) = some 0x44 := by decide +kernel

/-- Little-endian at any alignment (R53), stuck at the first unreadable byte (R60). -/
theorem test_memRead4 :
    resultOf (exec (.memRead4 0x1001) (onRamp 5 0 0)) = some 0x04030201 ∧
    faultOf (exec (.memRead4 0x1002) (onRamp 5 0 0)) = some (.unreadable 0x1005) := by decide +kernel

/-- Section 4.9: the tail of `ramp(128)` as a function, block at 0. -/
theorem test_round :
    (nextOf (exec (.round 0 .full) { onRamp 128 128 0 with acc := testConsts.accInit })).map
        (fun t => (t.acc[1], t.acc[15], t.phase)) =
      some (0xE9265458, 0xE0E7A6CE, .idle) := by decide +kernel

/-! ### Steps -/

/-- The host's turn and then the core's. -/
theorem test_step_turns :
    (nextOf (step { onRamp 5 5 0 with turns := [.write .ctrl 1] })).map (fun t => (t.phase, t.turns)) =
      some (.dispatch, []) ∧
    (nextOf (step { onRamp 5 5 0 with phase := .dispatch })).map (·.phase) = some .smInit := by decide +kernel

/-- R160, R20, log 17: while `BUSY` the port runs `sx_a` and refuses the round. -/
theorem test_port_while_busy :
    resultOf (step { State.reset with phase := .medRound, turns := [.apply .sxA 0x1234567800000000#96] }) =
      some 0x122662BF ∧
    step { State.reset with phase := .medRound, turns := [.apply .round 0] } = .refused .roundWhileBusy :=
  ⟨by decide, rfl⟩

/-- U6: a read of DIGEST before DONE answers 32 free bits with zeros above (log 25). -/
theorem test_read_digest_early :
    resultOf (step { State.reset with turns := [.read .digest] }) = some ((Config.freeWord 0).setWidth 64) := rfl

/-- A placed word is what the next step runs. -/
theorem test_withFetchWord :
    (nextOf (step (State.reset.withFetchWord 8 0x1))).map (·.phase) = some .tiny0 ∧
    (nextOf (step (State.reset.withFetchWord 32 0x1))).map (·.phase) = some .dispatch ∧
    (nextOf (step (State.reset.withFetchWord 160 0))).map (·.phase) = some .done := by decide +kernel

/-! ### Witnesses: for each statement with hypotheses, states and operands that meet them, clause by clause at
the ends of a clause's range -/

/-- The contents of `ramp`. -/
def rampByte (off : Nat) : Byte := BitVec.ofNat 8 off

/-- What `ramp` holds. -/
theorem holds_ramp : (ramp 0x1000 0 129).holds 0x1000 129 rampByte := by
  unfold Memory.holds
  decide +kernel

/-- A prefix of a buffer holds the same bytes. -/
theorem holds_prefix {m : Memory} {ptr : Addr} {len len' : Len} {data : Nat → Byte} (h : m.holds ptr len data)
    (hl : len'.toNat ≤ len.toNat) : m.holds ptr len' data := fun off ho => h off (by omega)

/-- The buffer of `onRamp 129` holds `ramp`, up to 129 bytes. -/
theorem holds_onRamp (len : Len) (seed : Word) (h : len.toNat ≤ 129) :
    (onRamp 129 len seed).mem.holds (onRamp 129 len seed).ptr len rampByte := holds_prefix holds_ramp h

theorem witness_decodeOfEncode :
    ([.hash32Tiny14Len1to3 0 1 0, .hash32Tiny14Len1to3 0 3 0, .hash32ShortLen5to15 0 5 0,
      .hash32ShortLen5to15 0 15 0, .hash32Medium 0 17 0, .hash32Medium 0 127 0, .hash32Long 0 128 0,
      .hash32Long 0 0xFFFFFFFFFFFFFFFF 0, .round 5 .full] : List Instr).all (·.wellFormed) = true := by decide

theorem witness_encodeOfDecode :
    decode (.ctrl 0xFFFFFFFF#32) = .ok (.start 0x7FFFFFFF) ∧
    decode (.cmd 0x00000001000000000000007F0000000000000002#160) = .ok (.hash32Medium 2 127 1) := by decide

theorem witness_phaseCodes : 14 ≤ (14 : BitVec 4).toNat ∧ 14 ≤ (15 : BitVec 4).toNat ∧ (13 : BitVec 4).toNat < 14 := by
  decide

theorem witness_stepRunsTheFetchedOperation :
    (fetch State.reset = some (.phase 0, State.reset) ∧ decode (.phase 0) = .ok .idle) ∧
    (fetch { State.reset with turns := [.apply .sxA 2] } = some (.func .sxA 2, State.reset) ∧
      decode (.func .sxA 2) = .error .strayBits) := ⟨⟨rfl, rfl⟩, ⟨rfl, rfl⟩⟩

theorem witness_coreTurnRunsPhase :
    State.reset.turns = [] ∧ ({ State.reset with turns := [.core, .reset] } : State).turns = .core :: [.reset] :=
  ⟨rfl, rfl⟩

theorem witness_hostTurns :
    decode (.cmd ((1 : Word) ++ (5 : Len) ++ (2 : Addr) : BitVec 160)) = .ok (.hash32ShortLen5to15 2 5 1) ∧
    (0xFFFFFFFFFFFFFFFF#64).getLsbD 0 = true ∧
    (Instr.mul16 3 4).wellFormed = true ∧ encode (.mul16 3 4) = .func .mul16 0x000000040000000300000000#96 := by
  decide

theorem witness_placedWord :
    decodeTableWord 8 0xC = some .longMerge ∧ decodeTableWord 32 0x1 = some (.start 0) ∧
    decodeTableWord 160 (128 * 2 ^ 64) = some (.hash32Long 0 128 0) := by decide

theorem witness_mul16Lanes :
    (0xFFFF0000 : Word).toNat % 2 ^ 16 = 0 ∧ (0x0000FFFF : Word).toNat / 2 ^ 16 = 0 := by decide

theorem witness_avalancheExample : testConsts.m3 = 0x89ABCDEF ∧ testConsts.m4 = 0x13579BDF := by decide

theorem witness_short32Depends :
    testConsts.m1 = ({ testConsts with m3 := 0 } : Consts).m1 ∧
    testConsts.m2 = ({ testConsts with m3 := 0 } : Consts).m2 ∧ testConsts ≠ { testConsts with m3 := 0 } :=
  ⟨rfl, rfl, fun h => absurd (congrArg Consts.m3 h) (by decide)⟩

theorem witness_laneOrder :
    ([2, 0, 3, 1] : List (Fin 4)).Nodup ∧ ∀ j : Fin 4, j ∈ ([2, 0, 3, 1] : List (Fin 4)) := by decide

/-- A byte, no byte, four bytes, and the first and the last byte of four missing; the last address of all. -/
theorem witness_memoryReads :
    let m := (onRamp 5 0 0).mem
    m.byteAt 0x1004 = some 4 ∧ m.byteAt 0x1005 = none ∧
    (m.byteAt 0x1001 = some 1 ∧ m.byteAt (0x1001 + 1) = some 2 ∧ m.byteAt (0x1001 + 2) = some 3 ∧
      m.byteAt (0x1001 + 3) = some 4) ∧
    ((∀ i < 0, (m.byteAt (0x1005 + i)).isSome = true) ∧ m.byteAt (0x1005 + 0) = none) ∧
    ((∀ i < 3, (m.byteAt (0x1002 + i)).isSome = true) ∧ m.byteAt (0x1002 + 3) = none) ∧
    (Memory.byteAt [(0xFFFFFFFFFFFFFFFF, 7)] 0xFFFFFFFFFFFFFFFF = some 7 ∧
      Memory.byteAt [(0xFFFFFFFFFFFFFFFF, 7)] (0xFFFFFFFFFFFFFFFF + 1) = none) := by decide +kernel

/-- A readable block, and one whose last byte is not readable. -/
theorem witness_round :
    (∀ off, (1 : Len).toNat ≤ off → off < (1 : Len).toNat + 128 →
      (onRamp 129 0 0).mem.byteAt ((onRamp 129 0 0).ptr.toNat + off) = some (rampByte off)) ∧
    ((2 : Len).toNat ≤ 129 ∧ 129 < (2 : Len).toNat + 128 ∧
      (onRamp 129 0 0).mem.byteAt ((onRamp 129 0 0).ptr.toNat + 129) = none) :=
  ⟨fun off _ h => holds_ramp off (by simpa using h), by decide +kernel⟩

/-- From `IDLE`, and from `DONE` with `LEN = 0`, no `PTR`, and a buffer up to the last address. -/
theorem witness_start :
    let s := { onRamp 0 1 0 with ptr := 0xFFFFFFFFFFFFFFFF }
    let s' := { onRamp 0 0 0 with phase := .done, ptrWritten := false }
    (s.phase = .idle ∧ s.lenWritten = true ∧ s.seedWritten = true ∧ s.ptrWritten = true ∧
      s.ptr.toNat + s.len.toNat = 2 ^ 64) ∧
    (s'.phase = .done ∧ s'.lenWritten = true ∧ s'.seedWritten = true ∧ s'.len.toNat = 0 ∧
      s'.ptr.toNat + s'.len.toNat ≤ 2 ^ 64) := by decide

/-- A command in a busy core and one that wraps, and the three refused STARTs. -/
theorem witness_startOrCommandIsRefused :
    (({ onRamp 0 0 0 with phase := .dispatch } : State).busy = true ∧
      ((onRamp 0 0 0).busy = false ∧ 2 ^ 64 < (0xFFFFFFFFFFFFFFFF : Addr).toNat + (2 : Len).toNat)) ∧
    (({ onRamp 0 0 0 with phase := .longMerge } : State).phase ≠ .idle ∧
      ({ onRamp 0 0 0 with phase := .longMerge } : State).phase ≠ .done) ∧
    (({ onRamp 0 1 0 with ptrWritten := false } : State).phase = .idle ∧
      ({ onRamp 0 1 0 with ptrWritten := false } : State).ptrWritten = false ∧
      ({ onRamp 0 1 0 with ptrWritten := false } : State).len.toNat ≠ 0) ∧
    (({ onRamp 0 2 0 with ptr := 0xFFFFFFFFFFFFFFFF } : State).phase = .idle ∧
      ({ onRamp 0 2 0 with ptr := 0xFFFFFFFFFFFFFFFF } : State).ptrWritten = true ∧
      2 ^ 64 < ({ onRamp 0 2 0 with ptr := 0xFFFFFFFFFFFFFFFF } : State).ptr.toNat +
        ({ onRamp 0 2 0 with ptr := 0xFFFFFFFFFFFFFFFF } : State).len.toNat) := by decide

/-- A core turn in `IDLE` and in `DONE`, a reset of a busy core, and a START that leaves `IDLE`. -/
theorem witness_idleAndDone :
    (∃ t, step State.reset = .next t ∧ State.reset.coreTurn ∧ State.reset.phase = .idle ∧ t.phase = .idle) ∧
    (∃ t, step { State.reset with phase := .done } = .next t ∧
      ({ State.reset with phase := .done } : State).coreTurn) ∧
    (∃ t, step { State.reset with phase := .medRound, turns := [.reset] } = .next t ∧ t.phase = .idle) ∧
    (∃ t, step { onRamp 0 0 0 with turns := [.write .ctrl 1] } = .next t ∧ t.phase ≠ .idle) :=
  ⟨⟨_, rfl, rfl, rfl, rfl⟩, ⟨_, rfl, rfl⟩, ⟨_, rfl, rfl⟩, ⟨_, rfl, nofun⟩⟩

theorem witness_tiny14 :
    (1 ≤ (onRamp 129 1 0).len.toNat ∧ (onRamp 129 1 0).mem.holds (onRamp 129 1 0).ptr 1 rampByte) ∧
    ((onRamp 129 4 0).len.toNat ≤ 4 ∧ (onRamp 129 4 0).mem.holds (onRamp 129 4 0).ptr 4 rampByte) :=
  ⟨⟨by decide, holds_onRamp 1 0 (by decide)⟩, ⟨by decide, holds_onRamp 4 0 (by decide)⟩⟩

theorem witness_smInit : (onRamp 0 16 0).len.toNat ≤ 16 ∧ 16 < (onRamp 0 17 0).len.toNat := by decide

theorem witness_shortAbsorb :
    (5 ≤ (onRamp 129 5 0).len.toNat ∧ (onRamp 129 5 0).mem.holds (onRamp 129 5 0).ptr 5 rampByte) ∧
    ((onRamp 129 16 0).len.toNat ≤ 16 ∧ (onRamp 129 16 0).mem.holds (onRamp 129 16 0).ptr 16 rampByte) :=
  ⟨⟨by decide, holds_onRamp 5 0 (by decide)⟩, ⟨by decide, holds_onRamp 16 0 (by decide)⟩⟩

/-- The last block (`K + 1 = NB`) and one before it. -/
theorem witness_medRound :
    let s := { onRamp 129 33 0 with k := 1, nb := 2 }
    let s' := { onRamp 129 33 0 with k := 0, nb := 2 }
    (s.k.toNat + 1 = s.nb.toNat ∧ ∀ off, 16 * s.k.toNat ≤ off → off < 16 * s.k.toNat + 16 →
      s.mem.byteAt (s.ptr.toNat + off) = some (rampByte off)) ∧
    (s'.k.toNat + 1 ≠ s'.nb.toNat ∧ ∀ off, 16 * s'.k.toNat ≤ off → off < 16 * s'.k.toNat + 16 →
      s'.mem.byteAt (s'.ptr.toNat + off) = some (rampByte off)) :=
  ⟨⟨by decide, fun off _ h => holds_ramp off (by simp at h ⊢; omega)⟩,
    ⟨by decide, fun off _ h => holds_ramp off (by simp at h ⊢; omega)⟩⟩

theorem witness_medTail :
    16 ≤ (onRamp 129 16 0).len.toNat ∧
    ∀ off, (onRamp 129 16 0).len.toNat - 16 ≤ off → off < (onRamp 129 16 0).len.toNat →
      (onRamp 129 16 0).mem.byteAt ((onRamp 129 16 0).ptr.toNat + off) = some (rampByte off) :=
  ⟨by decide, fun off _ h => holds_onRamp 16 0 (by decide) off h⟩

/-- The least length, and both sides of the first full block. -/
theorem witness_longInit :
    1 ≤ (onRamp 0 1 0).len.toNat ∧ ((onRamp 0 128 0).len.toNat - 1) / 128 = 0 ∧
    ((onRamp 0 129 0).len.toNat - 1) / 128 ≠ 0 := by decide

/-- The last block (`K + 1 = NB`) and one before it. -/
theorem witness_longRound :
    let s := { onRamp 129 129 0 with k := 0, nb := 1 }
    let s' := { onRamp 129 129 0 with k := 0, nb := 2 }
    (s.k.toNat + 1 = s.nb.toNat ∧ ∀ off, 128 * s.k.toNat ≤ off → off < 128 * s.k.toNat + 128 →
      s.mem.byteAt (s.ptr.toNat + off) = some (rampByte off)) ∧
    (s'.k.toNat + 1 ≠ s'.nb.toNat ∧ ∀ off, 128 * s'.k.toNat ≤ off → off < 128 * s'.k.toNat + 128 →
      s'.mem.byteAt (s'.ptr.toNat + off) = some (rampByte off)) :=
  ⟨⟨by decide, fun off _ h => holds_ramp off (by simp at h ⊢; omega)⟩,
    ⟨by decide, fun off _ h => holds_ramp off (by simp at h ⊢; omega)⟩⟩

theorem witness_longTail :
    128 ≤ (onRamp 129 128 0).len.toNat ∧
    ∀ off, (onRamp 129 128 0).len.toNat - 128 ≤ off → off < (onRamp 129 128 0).len.toNat →
      (onRamp 129 128 0).mem.byteAt ((onRamp 129 128 0).ptr.toNat + off) = some (rampByte off) :=
  ⟨by decide, fun off _ h => holds_onRamp 128 0 (by decide) off h⟩

/-- The largest length of each clause, and the bytes that are still read. -/
theorem witness_unstatedLengths :
    (onRamp 0 0 0).len.toNat = 0 ∧ (onRamp 0 15 0).len.toNat < 16 ∧ (onRamp 0 127 0).len.toNat < 128 ∧
    (onRamp 129 0 0).mem.byteAt (onRamp 129 0 0).ptr.toNat = some 0 ∧
    ((onRamp 129 3 0).len.toNat < 4 ∧ ∀ off, off < 4 →
      (onRamp 129 3 0).mem.byteAt ((onRamp 129 3 0).ptr.toNat + off) = some (rampByte off)) :=
  ⟨by decide, by decide, by decide, by decide +kernel, by decide, fun off h => holds_ramp off (by simp; omega)⟩

theorem witness_tiny0Row :
    (onRamp 0 0 0).busy = false ∧ ({ onRamp 0 0 0 with phase := .done } : State).busy = false := by decide

theorem witness_tiny14Rows :
    (onRamp 129 0 0).busy = false ∧ (onRamp 129 0 0).mem.holds 0x1000 1 rampByte ∧
    (onRamp 129 0 0).mem.holds 0x1000 3 rampByte ∧ (onRamp 129 0 0).mem.holds 0x1000 4 rampByte :=
  ⟨by decide, holds_onRamp 1 0 (by decide), holds_onRamp 3 0 (by decide), holds_onRamp 4 0 (by decide)⟩

theorem witness_shortRows :
    (onRamp 129 0 0).busy = false ∧ (onRamp 129 0 0).mem.holds 0x1000 5 rampByte ∧
    (onRamp 129 0 0).mem.holds 0x1000 15 rampByte ∧ (onRamp 129 0 0).mem.holds 0x1000 16 rampByte :=
  ⟨by decide, holds_onRamp 5 0 (by decide), holds_onRamp 15 0 (by decide), holds_onRamp 16 0 (by decide)⟩

theorem witness_mediumRow :
    (onRamp 129 0 0).busy = false ∧ (17 ≤ (17 : Len).toNat ∧ (onRamp 129 0 0).mem.holds 0x1000 17 rampByte) ∧
    ((127 : Len).toNat ≤ 127 ∧ (onRamp 129 0 0).mem.holds 0x1000 127 rampByte) :=
  ⟨by decide, ⟨by decide, holds_onRamp 17 0 (by decide)⟩, ⟨by decide, holds_onRamp 127 0 (by decide)⟩⟩

theorem witness_longRow :
    (onRamp 129 0 0).busy = false ∧ 128 ≤ (128 : Len).toNat ∧
    (onRamp 129 0 0).mem.holds 0x1000 128 rampByte ∧ (onRamp 129 0 0).mem.holds 0x1000 129 rampByte :=
  ⟨by decide, by decide, holds_onRamp 128 0 (by decide), holds_onRamp 129 0 (by decide)⟩

/-- A command that completes, and a buffer that fits but whose last byte is not readable. -/
theorem witness_hash32_readability :
    (nextOf (exec (.hash32 0x1000 5 0) (onRamp 5 0 0))).isSome = true ∧
    ((0x1000 : Addr).toNat + (6 : Len).toNat ≤ 2 ^ 64 ∧ 5 < (6 : Len).toNat ∧
      (onRamp 5 0 0).mem.byteAt ((0x1000 : Addr).toNat + 5) = none) := by decide +kernel

/-- The empty buffer, and one of every class. -/
theorem witness_hash32 :
    (onRamp 129 0 0).busy = false ∧ (onRamp 129 0 0).mem.holds 0x1000 0 rampByte ∧
    (onRamp 129 0 0).mem.holds 0x1000 4 rampByte ∧ (onRamp 129 0 0).mem.holds 0x1000 16 rampByte ∧
    (onRamp 129 0 0).mem.holds 0x1000 127 rampByte ∧ (onRamp 129 0 0).mem.holds 0x1000 129 rampByte :=
  ⟨by decide, holds_onRamp 0 0 (by decide), holds_onRamp 4 0 (by decide), holds_onRamp 16 0 (by decide),
    holds_onRamp 127 0 (by decide), holds_onRamp 129 0 (by decide)⟩

theorem witness_commandRowsRefine :
    decode (.cmd 0x0000000000000000000000100000000000001000#160) = .ok (.hash32ShortLen16 0x1000 0) ∧
    decode (.cmdAny 0x0000000000000000000000100000000000001000#160) = .ok (.hash32 0x1000 16 0) := by decide

/-- The same five bytes at two addresses, in states that differ in everything else. -/
theorem witness_digestDependsOnTheInput :
    let s := onRamp 5 0 7
    let s' := { onRamp 0 3 9 with mem := ramp 0x2001 0 5, phase := .done, x := 1, k := 2, digest := 3 }
    s.consts = s'.consts ∧
    (∀ off, off < (5 : Len).toNat →
      s.mem.byteAt ((0x1000 : Addr).toNat + off) = s'.mem.byteAt ((0x2001 : Addr).toNat + off)) ∧
    (nextOf (exec (.hash32 0x1000 5 0) s)).isSome = true ∧
    (nextOf (exec (.hash32 0x2001 5 0) s')).isSome = true := by
  exact ⟨rfl, by decide +kernel, by decide +kernel, by decide +kernel⟩

/-- A busy core in a consistent state, at its turn, over a readable buffer. -/
theorem witness_consistentStep :
    let s := { onRamp 33 33 0 with phase := .medRound, k := 1, nb := 2 }
    s.consistent ∧ s.coreTurn ∧ s.busy = true ∧ (∀ off, off < s.len.toNat →
      (s.mem.byteAt (s.ptr.toNat + off)).isSome = true) ∧ (nextOf (step s)).isSome = true := by
  exact ⟨by decide +kernel, rfl, by decide, by decide +kernel, by decide +kernel⟩

theorem witness_stepKeepsConsistency :
    let s := { onRamp 5 5 0 with phase := .dispatch }
    s.consistent ∧ ∃ t, step s = .next t := by
  exact ⟨by decide +kernel, _, rfl⟩

/-- A consistent core that is stuck (P4). -/
theorem witness_coreReadsOnlyTheBuffer :
    let s := { onRamp 0 100 0 with
      mem := ramp 0x1200 0 88, ptr := 0x1200, phase := .medRound, k := 5, nb := 6 }
    s.consistent ∧ s.coreTurn ∧ s.reads 88 ∧ faultOf (step s) = some (.unreadable 0x1258) := by
  exact ⟨by decide +kernel, rfl, by simp [State.reads], by decide +kernel⟩

/-- One that goes on, over two memories that agree on the bytes it reads only. -/
theorem witness_coreReadsNothingElse :
    let s := { onRamp 33 33 0 with phase := .medRound, k := 1, nb := 2 }
    s.consistent ∧ s.coreTurn ∧ (nextOf (step s)).isSome = true ∧
    ∀ off, s.reads off → (ramp 0x1010 16 16).byteAt (s.ptr.toNat + off) = s.mem.byteAt (s.ptr.toNat + off) := by
  refine ⟨by decide +kernel, rfl, by decide +kernel, ?_⟩
  have h : ∀ i < 16, (ramp 0x1010 16 16).byteAt (0x1000 + (16 + i)) = (ramp 0x1000 0 33).byteAt (0x1000 + (16 + i)) := by
    decide +kernel
  intro off ho
  have ho' : 16 * 1 ≤ off ∧ off < 16 * 1 + 16 := ho
  obtain ⟨i, rfl⟩ := Nat.exists_eq_add_of_le ho'.1
  exact h i (by omega)

theorem witness_coreRunsOnAReadableBuffer :
    let s := { onRamp 5 5 0 with phase := .shortAbsorb }
    s.consistent ∧ s.coreTurn ∧ s.bufferReadable := by
  refine ⟨by decide +kernel, rfl, ?_⟩
  unfold State.bufferReadable
  decide +kernel

theorem witness_constantsNeverChange :
    ∃ t, step { State.reset with turns := [.reset] } = .next t := ⟨_, rfl⟩

theorem witness_onlyThePlatformWritesMemory :
    (∃ t, step { onRamp 0 0 0 with phase := .tiny0 } = .next t) ∧
    (∀ addr b, ({ onRamp 0 0 0 with phase := .tiny0 } : State).nextTurn.1 ≠ .store addr b) ∧
    (∀ addr, ({ onRamp 0 0 0 with phase := .tiny0 } : State).nextTurn.1 ≠ .release addr) :=
  ⟨⟨_, rfl⟩, fun _ _ => nofun, fun _ => nofun⟩

theorem witness_operandsAreStableWhileBusy :
    let s := { onRamp 0 0 0 with phase := .dispatch }
    s.busy = true ∧ s.coreTurn ∧ s.nextTurn.1 ≠ .reset ∧ ∃ t, step s = .next t ∧ t.phase ≠ .done :=
  ⟨by decide, rfl, nofun, _, rfl, nofun⟩

theorem witness_phaseFollowsTheTransitionTable :
    let s := { onRamp 0 129 0 with phase := .longInit }
    s.phaseFits = true ∧ s.coreTurn ∧ ∃ t, step s = .next t :=
  ⟨by decide, rfl, _, rfl⟩

theorem witness_controlDoesNotDependOnData :
    let s := { onRamp 0 300 0 with phase := .longInit }
    let s' := { onRamp 5 300 9 with phase := .longInit, consts := Config.consts, ptr := 3, x := 1 }
    s.phaseFits = true ∧ s.coreTurn ∧ s'.coreTurn ∧ s.phase = s'.phase ∧ s.len = s'.len ∧ s.k = s'.k ∧ s.nb = s'.nb ∧
    (∃ t, step s = .next t ∧ t.busy = true) ∧ ∃ t', step s' = .next t' :=
  ⟨by decide, rfl, rfl, rfl, rfl, rfl, rfl, ⟨_, rfl, rfl⟩, _, rfl⟩

theorem witness_statusWrite :
    ({ State.reset with turns := [.write .status 3] } : State).turns = .write .status 3 :: [] := rfl

theorem witness_hostWrites :
    ({ State.reset with turns := [.write .ptr 5] } : State).busy = false ∧
    ({ State.reset with phase := .done, turns := [.write .ctrl 0xFFFFFFFFFFFFFFFE] } : State).busy = false ∧
    (0xFFFFFFFFFFFFFFFE#64).getLsbD 0 = false ∧
    ({ State.reset with phase := .longTail, turns := [.write .ctrl 1] } : State).busy = true := by decide

theorem witness_hostReads :
    ({ onRamp 0 0 0 with turns := [.read .ptr] } : State).ptrWritten = true ∧
    ({ onRamp 0 0 0 with turns := [.read .len] } : State).lenWritten = true ∧
    ({ onRamp 0 0 0 with turns := [.read .seed] } : State).seedWritten = true ∧
    ({ onRamp 0 0 0 with phase := .done, turns := [.read .digest] } : State).phase = .done := by decide

/-- The first and the last byte of a buffer in use, the bytes next to them, and a core that is not busy. -/
theorem witness_platformWrites :
    let s := { onRamp 5 5 0 with phase := .dispatch }
    s.busy = true ∧ (s.ptr.toNat ≤ 0x1000 ∧ 0x1000 < s.ptr.toNat + s.len.toNat) ∧
    (s.ptr.toNat ≤ 0x1004 ∧ 0x1004 < s.ptr.toNat + s.len.toNat) ∧
    ¬(s.ptr.toNat ≤ 0x0FFF ∧ 0x0FFF < s.ptr.toNat + s.len.toNat) ∧
    ¬(s.ptr.toNat ≤ 0x1005 ∧ 0x1005 < s.ptr.toNat + s.len.toNat) ∧ (onRamp 5 5 0).busy = false := by decide

theorem witness_resetAbandons :
    ({ onRamp 0 300 0 with phase := .longRound, turns := [.reset] } : State).turns = .reset :: [] := rfl

end Sys2Proof.Tests
end

section
/-! PROOFS. Two limits of what the spec states: `SHORT32`, of which R9 gives the arguments only, and the
operations at lengths for which no rule states their offsets (log 31). -/

namespace Sys2Proof.Machine

open Sys2Proof

/-! ### `SHORT32` (R9) -/

theorem short32_without_seed2 (c : Consts) (x seed2 : Word) :
    short32 c x seed2 false = Config.short32Plain c.m1 c.m2 x := rfl

theorem short32_with_seed2 (c : Consts) (x seed2 : Word) :
    short32 c x seed2 true = Config.short32Keyed c.m1 c.m2 x seed2 := rfl

/-- Settles O16: each mode of `SHORT32` is a function of `M1`, `M2` and its own arguments. -/
theorem short32DependsOnItsArgumentsOnly : Obligations.Short32DependsOnItsArgumentsOnly := by
  refine ⟨fun c c' x seed2 b hm1 hm2 => ?_, fun c x seed2 seed2' => ?_⟩
  · cases b with
    | false => rw [short32_without_seed2, short32_without_seed2, hm1, hm2]
    | true => rw [short32_with_seed2, short32_with_seed2, hm1, hm2]
  · rw [short32_without_seed2, short32_without_seed2]

/-! ### Words from bytes (R50, R84) -/

/-- R50 as a concatenation: the shifted bytes do not overlap, so each bit comes from one byte. -/
theorem littleEndian_eq_append (b0 b1 b2 b3 : Byte) :
    littleEndian b0 b1 b2 b3 = (b3 ++ b2 ++ b1 ++ b0 : BitVec 32) := by
  ext i hi
  simp only [littleEndian, BitVec.getElem_or, BitVec.getElem_setWidth, BitVec.getElem_shiftLeft]
  grind

/-- R84 as a concatenation: again each bit comes from one byte. -/
theorem tinyWord_eq_append (first last mid1 mid2 : Byte) :
    tinyWord first last mid1 mid2 = (last ++ first ++ mid2 ++ mid1 : BitVec 32) := by
  ext i hi
  simp only [tinyWord, BitVec.getElem_or, BitVec.getElem_setWidth, BitVec.getElem_shiftLeft]
  grind

/-- A word read answers the word of the four bytes it reads. -/
theorem word_of_bytes {b : Buffer} {off : Nat} {data : Nat → Byte}
    (h : ∀ o, off ≤ o → o < off + 4 → b.mem.byteAt (b.addr o) = some (data o)) :
    b.word off = .ok (dataWord data off) :=
  word_ok.mpr (memRead4_ok.mpr ⟨data off, data (off + 1), data (off + 2), data (off + 3),
    h off (by omega) (by omega), h (off + 1) (by omega) (by omega), h (off + 2) (by omega) (by omega),
    h (off + 3) (by omega) (by omega), (littleEndian_eq_append ..).symm⟩)

theorem mixLanes_four (c : Consts) (acc : Vector Word 4) (w0 w1 w2 w3 : Word) (i : Intensity) :
    mixLanes c acc #v[w0, w1, w2, w3] i =
      #v[mix32 c acc[0] w0 i, mix32 c acc[1] w1 i, mix32 c acc[2] w2 i, mix32 c acc[3] w3 i] := rfl

/-! ### Free values in the place of an offset that the spec does not state (log 31) -/

/-- `n` free words, as an operation reads them from a block without an offset. -/
def State.freeBlock (s : State) (n : Nat) : Vector Word n :=
  Vector.ofFn fun i => Config.freeWord (s.draws + i)

theorem absorb_unstated {n : Nat} (s : State) (acc : Vector Word n) (i : Intensity) :
    s.buffer.absorb s.consts acc none i = .ok (mixLanes s.consts acc (s.freeBlock n) i) :=
  absorb_ok.mpr ⟨s.freeBlock n, words_unstated s.buffer n, rfl⟩

/-- At `LEN = 0` the four bytes of R84 are the byte at `PTR`, thrice, and a free one. -/
theorem packTiny_of_len_zero {s : State} {b : Byte} (hlen : s.len.toNat = 0)
    (hb : s.mem.byteAt s.ptr.toNat = some b) :
    s.buffer.packTiny = .ok (tinyWord b ((Config.freeWord s.draws).setWidth 8) b b) := by
  have hbyte : s.buffer.byte 0 = .ok b := byte_ok.mpr hb
  have hlast : s.buffer.byteAt 0 (lenMinus s.len 1) = .ok ((Config.freeWord s.draws).setWidth 8) := by
    rw [lenMinus_unstated (by omega)]
    rfl
  have hmid (c : Nat) : s.buffer.byte (s.buffer.len.toNat / c) = .ok b := by
    rwa [show s.buffer.len.toNat = 0 from hlen, Nat.zero_div]
  exact packTiny_ok.mpr ⟨b, _, b, b, hbyte, hlast, hmid 2, hmid 4, rfl⟩

/-- Below 4 bytes the stride of R83 is 0, so the first two words of R121 are the one at `PTR`, and the other two
have no offset. -/
theorem words_of_len_lt_four {s : State} {data : Nat → Byte} (hlen : s.len.toNat < 4)
    (hdata : ∀ off, off < 4 → s.mem.byteAt (s.ptr.toNat + off) = some (data off)) :
    s.buffer.words 4 (shortOffset s.len) = .ok #v[dataWord data 0, dataWord data 0,
      Config.freeWord (s.draws + 2), Config.freeWord (s.draws + 3)] := by
  have hstride : shortStride s.len = 0 := by
    unfold shortStride
    omega
  have hword : s.buffer.word 0 = .ok (dataWord data 0) := word_of_bytes fun o _ ho => hdata o (by omega)
  refine words_ok.mpr fun i hi => ?_
  match i with
  | 0 => exact hword
  | 1 => simpa [shortOffset, hstride] using hword
  | 2 => simp [shortOffset, lenMinus_unstated hlen, State.buffer]
  | 3 => simp [shortOffset, hstride, lenMinus_unstated hlen, State.buffer]

/-! ### The operations at those lengths -/

theorem exec_longInit_of_len_zero {s : State} (hlen : s.len.toNat = 0) :
    exec .longInit s = .next { s with
      acc := seedLanes s.consts.accInit s.seed
      nb := Config.freeValue s.draws / 128
      k := 0
      phase := if Config.freeValue s.draws / 128 = 0 then .longTail else .longRound
      draws := s.draws + 1 } := by
  have hzero : s.len = 0 := BitVec.eq_of_toNat_eq hlen
  have hminus : s.lenMinusOne = Config.freeValue s.draws := if_pos hzero
  change execLongInit s = _
  rw [execLongInit, hminus, lenMinus_unstated (by omega), State.drew_unstated]
  rfl

theorem exec_medTail_of_len_lt {s : State} (hlen : s.len.toNat < 16) :
    exec .medTail s = .next { s with
      a := mixLanes s.consts s.a (s.freeBlock 4) .full
      phase := .smFinal
      draws := s.draws + 4 } := by
  change execMedTail s = _
  rw [execMedTail, lenMinus_unstated hlen, absorb_unstated, afterRead_ok, State.drew_unstated]
  rfl

theorem exec_longTail_of_len_lt {s : State} (hlen : s.len.toNat < 128) :
    exec .longTail s = .next { s with
      acc := mixLanes s.consts s.acc (s.freeBlock 32) .full
      phase := .longMerge
      draws := s.draws + 32 } := by
  change execLongTail s = _
  rw [execLongTail, lenMinus_unstated hlen, Buffer.round, absorb_unstated, afterRead_ok, State.drew_unstated]
  rfl

/-- An operation that changes working registers only and then finishes ends the command (R104). -/
theorem endsWith_finish (s : State) (digest x sum : Word) (draws : Nat) :
    endsWith s digest ({ s with x := x, sum := sum, draws := draws }.finish digest) := rfl

theorem exec_tiny14_of_len_zero {s : State} {b : Byte} (hlen : s.len.toNat = 0)
    (hb : s.mem.byteAt s.ptr.toNat = some b) :
    ∃ t, exec .tiny14 s = .next t ∧
      endsWith s (~~~ short32 s.consts
        (tinyWord b ((Config.freeWord s.draws).setWidth 8) b b ^^^ (s.consts.prime[3] + s.seed)) s.seed true) t := by
  have hseed2 : lo32 s.len ^^^ s.seed = s.seed := by
    rw [show s.len = 0 from BitVec.eq_of_toNat_eq hlen]
    exact BitVec.zero_xor
  refine ⟨_, ?_, endsWith_finish s _ (tinyWord b ((Config.freeWord s.draws).setWidth 8) b b ^^^
    (s.consts.prime[3] + s.seed)) s.sum (s.draws + 1)⟩
  change execTiny14 s = _
  rw [execTiny14, packTiny_of_len_zero hlen hb, afterRead_ok, lenMinus_unstated (by omega), State.drew_unstated]
  simp only [hseed2]

theorem exec_shortAbsorb_of_len_lt_four {s : State} {data : Nat → Byte} (hlen : s.len.toNat < 4)
    (hdata : ∀ off, off < 4 → s.mem.byteAt (s.ptr.toNat + off) = some (data off)) :
    exec .shortAbsorb s = .next { s with
      a := mixLanes s.consts s.a #v[dataWord data 0, dataWord data 0,
        Config.freeWord (s.draws + 2), Config.freeWord (s.draws + 3)] .full
      phase := .smFinal
      draws := s.draws + 4 } := by
  change execShortAbsorb s = _
  rw [execShortAbsorb, words_of_len_lt_four hlen hdata, afterRead_ok, lenMinus_unstated hlen, State.drew_unstated]
  rfl

/-- Settles O36: the five operations at the lengths below their rules' offsets, each with the free values it draws. -/
theorem operationsRunAtUnstatedLengths : Obligations.OperationsRunAtUnstatedLengths := by
  intro s
  refine ⟨fun hlen => ?_, fun hlen => ?_, fun hlen => ?_, fun b hlen hb => ?_, fun data hlen hdata => ?_⟩
  · exact ⟨Config.freeValue s.draws, exec_longInit_of_len_zero hlen⟩
  · exact ⟨s.freeBlock 4, exec_medTail_of_len_lt hlen⟩
  · exact ⟨s.freeBlock 32, exec_longTail_of_len_lt hlen⟩
  · refine ⟨(Config.freeWord s.draws).setWidth 8, ?_⟩
    rw [← tinyWord_eq_append]
    exact exec_tiny14_of_len_zero hlen hb
  · refine ⟨Config.freeWord (s.draws + 2), Config.freeWord (s.draws + 3), ?_⟩
    rw [exec_shortAbsorb_of_len_lt_four hlen hdata, mixLanes_four]

end Sys2Proof.Machine
end

section
/-! PROOFS. What an operation can change, said once for every row of the table, and from it what a step keeps: the
constant store (R37), and the operands and `DIGEST` of a busy core (R29, R30). -/

namespace Sys2Proof.Machine

open Sys2Proof

/-! ### What an operation can change -/

/-- `t` is `s` but for what the core and the function port write: `PHASE`, the working registers, the answer and the
count of free values, and `DIGEST` where the command ends (R29, R104). -/
def State.worksTo (s t : State) : Prop :=
  t = { s with
    digest := t.digest, phase := t.phase, x := t.x, a := t.a, acc := t.acc, sum := t.sum, k := t.k, nb := t.nb,
    result := t.result, draws := t.draws } ∧
  (t.phase = .done ∨ t.digest = s.digest)

/-- What a command that completes leaves: operands written, START accepted, ended with the digest, digest read (R90). -/
def State.afterCommand (s : State) (ptr : Addr) (len : Len) (seed digest : Word) : State :=
  ((s.writeOperands ptr len seed).accept.finish digest).setResult (digest.setWidth 64)

/-- `t` is `s` after a command was issued: by a START, or by a command word that ran to its end. -/
def State.issuesTo (s t : State) : Prop :=
  s.busy = false ∧ (t = s.accept ∨ ∃ ptr len seed digest, t = s.afterCommand ptr len seed digest)

theorem worksTo_of_next {s t u : State} (h : Host.Outcome.next u = (.next t : Host.Outcome State Fault Refusal))
    (hu : s.worksTo u) : s.worksTo t := by
  cases h
  exact hu

theorem worksTo_of_afterRead {α : Type} {s t : State} {r : Except Fault α} {f : α → State}
    (h : afterRead r (fun v => .next (f v)) = .next t) (hf : ∀ v, s.worksTo (f v)) : s.worksTo t := by
  obtain ⟨v, -, hv⟩ := afterRead_next h
  exact worksTo_of_next hv (hf v)

/-- A core operation that does not end the command. -/
theorem worksTo_of_working (s : State) (x sum : Word) (a : Vector Word 4) (acc : Vector Word 32) (k nb : Len)
    (off : Offset) (n : Nat) (p : Phase) :
    s.worksTo (({ s with x := x, a := a, acc := acc, sum := sum, k := k, nb := nb }.drew off n).setPhase p) :=
  ⟨rfl, .inr rfl⟩

theorem worksTo_of_answer {s t : State} {v : Word} (h : s.answer v = .next t) : s.worksTo t :=
  worksTo_of_next h ⟨rfl, .inr rfl⟩

theorem issuesTo_of_runPath {s t : State} {cls : LengthClass} {ptr : Addr} {len : Len} {seed : Word}
    (h : s.runPath cls ptr len seed = .next t) : s.issuesTo t := by
  obtain ⟨hbusy, -, digest, -, ht⟩ := runPath_next h
  exact ⟨hbusy, .inr ⟨ptr, len, seed, digest, ht⟩⟩

theorem issuesTo_of_runRow {s t : State} {cls : LengthClass} {ptr : Addr} {len : Len} {seed : Word}
    (h : s.runRow cls ptr len seed = .next t) : s.issuesTo t :=
  issuesTo_of_runPath (runRow_next h).2

theorem issuesTo_of_startCommand {s t : State} (h : s.startCommand = .next t) : s.issuesTo t := by
  obtain ⟨hbusy, -, -, ht⟩ := startCommand_next h
  exact ⟨hbusy, .inl ht⟩

theorem exec_hash32Tiny0 (ptr : Addr) (seed : Word) (s : State) :
    exec (.hash32Tiny0 ptr seed) s = s.runRow .tiny0 ptr 0 seed := rfl

theorem exec_hash32Tiny14Len4 (ptr : Addr) (seed : Word) (s : State) :
    exec (.hash32Tiny14Len4 ptr seed) s = s.runRow .tiny14 ptr 4 seed := rfl

theorem exec_hash32ShortLen16 (ptr : Addr) (seed : Word) (s : State) :
    exec (.hash32ShortLen16 ptr seed) s = s.runRow .short ptr 16 seed := rfl

/-- Every operation, once: the commands and START issue a command in a core that is not busy, the others work on
what the core and the function port own. -/
theorem exec_next {i : Instr} {s t : State} (h : exec i s = .next t) : s.worksTo t ∨ s.issuesTo t := by
  cases i with
  | hash32Tiny0 ptr seed => exact .inr (issuesTo_of_runRow (exec_hash32Tiny0 .. ▸ h))
  | hash32Tiny14Len1to3 ptr len seed => exact .inr (issuesTo_of_runRow h)
  | hash32Tiny14Len4 ptr seed => exact .inr (issuesTo_of_runRow (exec_hash32Tiny14Len4 .. ▸ h))
  | hash32ShortLen5to15 ptr len seed => exact .inr (issuesTo_of_runRow h)
  | hash32ShortLen16 ptr seed => exact .inr (issuesTo_of_runRow (exec_hash32ShortLen16 .. ▸ h))
  | hash32Medium ptr len seed => exact .inr (issuesTo_of_runRow h)
  | hash32Long ptr len seed => exact .inr (issuesTo_of_runRow h)
  | hash32 ptr len seed => exact .inr (issuesTo_of_runPath h)
  | start reserved => exact .inr (issuesTo_of_startCommand h)
  | idle => exact .inl (worksTo_of_next h ⟨rfl, .inr rfl⟩)
  | dispatch => exact .inl (worksTo_of_next h ⟨rfl, .inr rfl⟩)
  | tiny0 => exact .inl (worksTo_of_next h ⟨rfl, .inl rfl⟩)
  | tiny14 => exact .inl (worksTo_of_afterRead h fun _ => ⟨rfl, .inl rfl⟩)
  | smInit =>
    change execSmInit s = .next t at h
    rw [execSmInit] at h
    split at h
    · exact .inl (worksTo_of_next h ⟨rfl, .inr rfl⟩)
    · exact .inl (worksTo_of_next h ⟨rfl, .inr rfl⟩)
  | shortAbsorb => exact .inl (worksTo_of_afterRead h fun _ => ⟨rfl, .inr rfl⟩)
  | medRound => exact .inl (worksTo_of_afterRead h fun _ => ⟨rfl, .inr rfl⟩)
  | medTail => exact .inl (worksTo_of_afterRead h fun _ => ⟨rfl, .inr rfl⟩)
  | smFinal => exact .inl (worksTo_of_next h ⟨rfl, .inl rfl⟩)
  | longInit => exact .inl (worksTo_of_next h (worksTo_of_working ..))
  | longRound => exact .inl (worksTo_of_afterRead h fun _ => ⟨rfl, .inr rfl⟩)
  | longTail => exact .inl (worksTo_of_afterRead h fun _ => ⟨rfl, .inr rfl⟩)
  | longMerge => exact .inl (worksTo_of_next h ⟨rfl, .inl rfl⟩)
  | done => exact .inl (worksTo_of_next h ⟨rfl, .inr rfl⟩)
  | sxA x => exact .inl (worksTo_of_answer h)
  | sxB x => exact .inl (worksTo_of_answer h)
  | mul16 x m => exact .inl (worksTo_of_answer h)
  | avalanche32Inner x => exact .inl (worksTo_of_answer h)
  | avalanche32Full x => exact .inl (worksTo_of_answer h)
  | mix32Inner h' x => exact .inl (worksTo_of_answer h)
  | mix32Full h' x => exact .inl (worksTo_of_answer h)
  | short32NoSeed2 x seed2 => exact .inl (worksTo_of_answer h)
  | short32Seed2 x seed2 => exact .inl (worksTo_of_answer h)
  | memRead1 addr => exact .inl (worksTo_of_afterRead h fun _ => ⟨rfl, .inr rfl⟩)
  | memRead4 addr => exact .inl (worksTo_of_afterRead h fun _ => ⟨rfl, .inr rfl⟩)
  | round base intensity => exact .inl (worksTo_of_afterRead h fun _ => ⟨rfl, .inr rfl⟩)

/-- In a busy core no command is issued, so every operation works on what the core and the function port own. -/
theorem exec_next_of_busy {i : Instr} {s t : State} (h : exec i s = .next t) (hbusy : s.busy = true) :
    s.worksTo t := by
  refine (exec_next h).resolve_right fun ⟨hidle, _⟩ => ?_
  simp [hidle] at hbusy

/-! ### The constant store (R37) -/

theorem State.worksTo.consts {s t : State} (h : s.worksTo t) : t.consts = s.consts := by
  rw [h.1]

theorem State.issuesTo.consts {s t : State} (h : s.issuesTo t) : t.consts = s.consts := by
  obtain ⟨-, rfl | ⟨ptr, len, seed, digest, rfl⟩⟩ := h
  · rfl
  · rfl

theorem exec_consts {i : Instr} {s t : State} (h : exec i s = .next t) : t.consts = s.consts :=
  (exec_next h).elim State.worksTo.consts State.issuesTo.consts

theorem hostWrite_consts {s t : State} {r : HostReg} {v : BitVec 64} (h : s.hostWrite r v = .next t) :
    t.consts = s.consts := by
  obtain rfl | ⟨-, rfl | rfl | rfl⟩ := hostWrite_next h
  · rfl
  · rfl
  · rfl
  · rfl

/-- A host read writes the answer and the count of free values, and nothing else (R207). -/
theorem hostRead_eq (s : State) (r : HostReg) :
    s.hostRead r = { s with result := (s.hostRead r).result, draws := (s.hostRead r).draws } := by
  obtain ⟨v, h⟩ | h | h := hostRead_cases s r
  · rw [h]; rfl
  · rw [h]; rfl
  · rw [h]; rfl

theorem doTurn_consts {tn : Turn} {s t : State} (h : doTurn tn s = .next t) : t.consts = s.consts := by
  rcases doTurn_next h with ⟨-, hop⟩ | ⟨w, -, hop⟩ | ⟨w, -, hop⟩ | ⟨v, -, -, hstart⟩ | ⟨r, v, -, -, hwrite⟩ |
    ⟨r, -, rfl⟩ | ⟨f, w, i, -, -, -, hop⟩ | ⟨addr, b, -, hstore⟩ | ⟨addr, -, hrelease⟩ | ⟨-, rfl⟩
  · exact exec_consts hop
  · exact exec_consts hop
  · exact exec_consts hop
  · exact (issuesTo_of_startCommand hstart).consts
  · exact hostWrite_consts hwrite
  · rw [hostRead_eq]
  · exact exec_consts hop
  · rw [(platformStore_next hstore).2]
  · rw [(platformRelease_next hrelease).2]
  · rfl

/-- Settles O50: no turn writes `CONST`, reset included. -/
theorem constantsNeverChange : Obligations.ConstantsNeverChange := by
  intro s t h
  rw [step_eq] at h
  rw [doTurn_consts h, nextTurn_state]

/-! ### The operands and `DIGEST` of a busy core (R29, R30) -/

/-- The operands as before, and `DIGEST` too unless the command has ended. -/
def State.holdsCommand (s t : State) : Prop :=
  sameOperands s t ∧ (t.phase ≠ .done → t.digest = s.digest)

theorem State.worksTo.holdsCommand {s t : State} (h : s.worksTo t) : s.holdsCommand t := by
  obtain ⟨heq, hdigest⟩ := h
  exact ⟨⟨by rw [heq], by rw [heq], by rw [heq]⟩, hdigest.resolve_left⟩

/-- While busy, every turn but a reset that has a next state works on what the core and the function port own, or
writes memory, or does nothing to the block. -/
theorem doTurn_holdsCommand {tn : Turn} {s t : State} (h : doTurn tn s = .next t) (hbusy : s.busy = true)
    (hreset : tn ≠ .reset) : s.holdsCommand t := by
  rcases doTurn_next h with ⟨-, hop⟩ | ⟨w, -, hop⟩ | ⟨w, -, hop⟩ | ⟨v, -, -, hstart⟩ | ⟨r, v, -, -, hwrite⟩ |
    ⟨r, -, rfl⟩ | ⟨f, w, i, -, -, -, hop⟩ | ⟨addr, b, -, hstore⟩ | ⟨addr, -, hrelease⟩ | ⟨hr, -⟩
  · exact (exec_next_of_busy hop hbusy).holdsCommand
  · exact (exec_next_of_busy hop hbusy).holdsCommand
  · exact (exec_next_of_busy hop hbusy).holdsCommand
  · exact (exec_next_of_busy (i := .start 0) hstart hbusy).holdsCommand
  · obtain rfl | ⟨hidle, -⟩ := hostWrite_next hwrite
    · exact ⟨⟨rfl, rfl, rfl⟩, fun _ => rfl⟩
    · simp [hidle] at hbusy
  · rw [hostRead_eq]
    exact ⟨⟨rfl, rfl, rfl⟩, fun _ => rfl⟩
  · exact (exec_next_of_busy hop hbusy).holdsCommand
  · obtain ⟨-, rfl⟩ := platformStore_next hstore
    exact ⟨⟨rfl, rfl, rfl⟩, fun _ => rfl⟩
  · obtain ⟨-, rfl⟩ := platformRelease_next hrelease
    exact ⟨⟨rfl, rfl, rfl⟩, fun _ => rfl⟩
  · exact absurd hr hreset

/-- Settles O52: the operands and `DIGEST` of a busy core at every step but a reset. -/
theorem operandsAreStableWhileBusy : Obligations.OperandsAreStableWhileBusy := by
  intro s t h hbusy
  rw [step_eq, nextTurn_state] at h
  exact ⟨fun hreset => (doTurn_holdsCommand h hbusy hreset).1,
    fun hreset => (doTurn_holdsCommand h hbusy hreset).2⟩

end Sys2Proof.Machine
end

section
/-! PROOFS. The turns that hold an operation run it: the core's turn (R31), the host's commands and START (R27, R80),
and the function port (log 17). -/

namespace Sys2Proof.Machine

open Sys2Proof

/-! ### Steps and turns -/

theorem step_of_no_turns {s : State} (h : s.turns = []) : step s = doTurn .core s := by
  simp only [step_eq, State.nextTurn, h]

theorem step_of_turns {s : State} {tn : Turn} {rest : List Turn} (h : s.turns = tn :: rest) :
    step s = doTurn tn { s with turns := rest } := by
  simp only [step_eq, State.nextTurn, h]

theorem doTurn_core (s : State) : doTurn .core s = exec s.phase.operation s :=
  runWord_ok s (decode_phase s.phase)

/-- A turn that holds an operation's word runs the word; taking turns off the list does not change what it holds. -/
theorem doTurn_eq_runWord {s : State} {turns : List Turn} {tn : Turn} {w : RawWord} (h : operationWord s tn = some w) :
    doTurn tn { s with turns := turns } = runWord w { s with turns := turns } := by
  cases tn with
  | core => cases h; rfl
  | command v => cases h; rfl
  | commandAny v => cases h; rfl
  | write r v =>
    simp only [operationWord, Option.ite_none_right_eq_some, Option.some.injEq] at h
    obtain ⟨hstart, rfl⟩ := h
    exact if_pos hstart
  | read r => cases h
  | apply f v =>
    simp only [operationWord, Option.ite_none_left_eq_some, Option.some.injEq] at h
    obtain ⟨hopen, rfl⟩ := h
    exact if_neg hopen
  | store addr b => cases h
  | release addr => cases h
  | reset => cases h

theorem fetch_eq_some {s t : State} {w : RawWord} (h : fetch s = some (w, t)) :
    operationWord s s.nextTurn.1 = some w ∧ t = { s with turns := s.turns.tail } := by
  simp only [fetch, Option.map_eq_some_iff, Prod.mk.injEq] at h
  obtain ⟨v, hv, rfl, rfl⟩ := h
  exact ⟨hv, nextTurn_state s⟩

/-- Settles O6: the fetched word is the one the turn runs. -/
theorem stepRunsTheFetchedOperation : Obligations.StepRunsTheFetchedOperation := by
  intro s t w hfetch
  obtain ⟨hword, rfl⟩ := fetch_eq_some hfetch
  have hstep : step s = runWord w { s with turns := s.turns.tail } := by
    rw [step_eq, nextTurn_state, doTurn_eq_runWord hword]
  exact ⟨rfl, fun i hi => hstep.trans (runWord_ok _ hi), fun e he => hstep.trans (runWord_error _ he)⟩

/-- Settles O7: the code in `PHASE` decodes to the operation of that name. -/
theorem coreTurnRunsPhase : Obligations.CoreTurnRunsPhase :=
  fun s _ => ⟨fun h => (step_of_no_turns h).trans (doTurn_core s), fun h => (step_of_turns h).trans (doTurn_core _)⟩

/-! ### The fields of the words -/

section CommandFields

variable (ptr : Addr) (len : Len) (seed : Word)

theorem commandPtr_append : commandPtr (seed ++ len ++ ptr : BitVec 160) = ptr :=
  BitVec.extractLsb'_append_eq_right

theorem commandLen_append : commandLen (seed ++ len ++ ptr : BitVec 160) = len :=
  (BitVec.extractLsb'_append_eq_of_le (by omega)).trans BitVec.extractLsb'_append_eq_right

theorem commandSeed_append : commandSeed (seed ++ len ++ ptr : BitVec 160) = seed :=
  (BitVec.extractLsb'_append_eq_of_le (by omega)).trans BitVec.extractLsb'_append_eq_left

end CommandFields

theorem decode_commandAny (ptr : Addr) (len : Len) (seed : Word) :
    decode (.cmdAny (seed ++ len ++ ptr : BitVec 160)) = .ok (.hash32 ptr len seed) := by
  simp only [decode, commandPtr_append, commandLen_append, commandSeed_append]

/-- Bits 31:1 of the low half of the value written are the reserved bits of the START (R27). -/
theorem decode_ctrl_of_start {v : BitVec 64} (h : v.getLsbD 0 = true) :
    decode (.ctrl (v.setWidth 32)) = .ok (.start (v.extractLsb' 1 31)) := by
  have hbit : (v.setWidth 32).getLsbD 0 = true := by simpa using h
  have hreserved : (v.setWidth 32).extractLsb' 1 31 = v.extractLsb' 1 31 := by
    ext i hi
    simp only [BitVec.getElem_extractLsb', BitVec.getLsbD_setWidth]
    grind
  simp only [decode, hbit, if_true, hreserved]

/-! ### The words of functions (log 18) -/

section FunctionWords

variable (sel : Bool) (op1 op2 : Word) (op : BitVec 64)

@[simp] theorem funcWord_selector : (funcWord sel op1 op2).extractLsb' 0 32 = (BitVec.ofBool sel).setWidth 32 :=
  BitVec.extractLsb'_append_eq_right

@[simp] theorem funcWord_op1 : (funcWord sel op1 op2).extractLsb' 32 32 = op1 :=
  (BitVec.extractLsb'_append_eq_of_le (by omega)).trans BitVec.extractLsb'_append_eq_right

@[simp] theorem funcWord_op2 : (funcWord sel op1 op2).extractLsb' 64 32 = op2 :=
  (BitVec.extractLsb'_append_eq_of_le (by omega)).trans BitVec.extractLsb'_append_eq_left

@[simp] theorem funcWordLong_selector : (funcWordLong sel op).extractLsb' 0 32 = (BitVec.ofBool sel).setWidth 32 :=
  BitVec.extractLsb'_append_eq_right

@[simp] theorem funcWordLong_op : (funcWordLong sel op).extractLsb' 32 64 = op :=
  BitVec.extractLsb'_append_eq_left

/-- The selector word is 0 or 1, and bit 0 tells which. -/
theorem getElem_zero_of_selector {w : BitVec 96} (h : w.extractLsb' 0 32 = (BitVec.ofBool sel).setWidth 32) :
    w[0] = sel := by
  have hbit := congrArg (fun x : Word => x.getLsbD 0) h
  simpa using hbit

@[simp] theorem funcWord_bit : (funcWord sel op1 op2)[0] = sel :=
  getElem_zero_of_selector sel (funcWord_selector sel op1 op2)

@[simp] theorem funcWordLong_bit : (funcWordLong sel op)[0] = sel :=
  getElem_zero_of_selector sel (funcWordLong_selector sel op)

end FunctionWords

/-- The word of a function decodes to that function: no bit of it is stray, and its fields are the operands. -/
theorem decodeFunc_of_encode {i : Instr} {f : FuncName} {w : BitVec 96} (h : encode i = .func f w) :
    decodeFunc f w = .ok i := by
  cases i with
  | sxA x => cases h; simp [decodeFunc]
  | sxB x => cases h; simp [decodeFunc]
  | mul16 x m => cases h; simp [decodeFunc]
  | avalanche32Inner x => cases h; simp [decodeFunc]
  | avalanche32Full x => cases h; simp [decodeFunc]
  | mix32Inner h' x => cases h; simp [decodeFunc]
  | mix32Full h' x => cases h; simp [decodeFunc]
  | short32NoSeed2 x seed2 => cases h; simp [decodeFunc]
  | short32Seed2 x seed2 => cases h; simp [decodeFunc]
  | memRead1 addr => cases h; simp [decodeFunc]
  | memRead4 addr => cases h; simp [decodeFunc]
  | round base intensity =>
    cases h
    cases intensity with
    | inner => simp [decodeFunc, Intensity.bit, Intensity.ofBit]
    | full => simp [decodeFunc, Intensity.bit, Intensity.ofBit]
  | _ => cases h

theorem portClosed_iff {s : State} {f : FuncName} : portClosed s f = true ↔ s.busy = true ∧ f = .round := by
  simp [portClosed]

/-- A function that encodes to the port's word runs there, but for the round while the core is busy. -/
theorem doTurn_apply {i : Instr} {f : FuncName} {w : BitVec 96} (s : State) (h : encode i = .func f w) :
    doTurn (.apply f w) s = if s.busy = true ∧ f = .round then .refused .roundWhileBusy else exec i s := by
  have hrun : runWord (.func f w) s = exec i s := runWord_ok s (decodeFunc_of_encode h)
  simp only [doTurn, portClosed_iff, hrun]

/-- A write to `CTRL` with bit 0 set runs the START (R27). -/
theorem doTurn_write_start {v : BitVec 64} (s : State) (h : v.getLsbD 0 = true) :
    doTurn (.write .ctrl v) s = exec (.start (v.extractLsb' 1 31)) s := by
  have hstart : isStart .ctrl v = true := by simp only [isStart, h, decide_true, Bool.and_self]
  exact (if_pos hstart).trans (runWord_ok s (decode_ctrl_of_start h))

/-- Settles O8: each of the host's words decodes to the operation that its turn runs. -/
theorem hostTurnsRunTheirOperation : Obligations.HostTurnsRunTheirOperation := by
  intro s rest
  refine ⟨fun ptr len seed i hi hturns => ?_, fun ptr len seed hturns => ?_, fun v hv hturns => ?_,
    fun i f w _ hw hturns => ?_⟩
  · exact (step_of_turns hturns).trans (runWord_ok _ hi)
  · exact (step_of_turns hturns).trans (runWord_ok _ (decode_commandAny ptr len seed))
  · exact (step_of_turns hturns).trans (doTurn_write_start _ hv)
  · exact (step_of_turns hturns).trans (doTurn_apply _ hw)

end Sys2Proof.Machine
end

section
/-! PROOFS. The host's side of the interface (spec/10_state.md section 4): `STATUS` as a view of `PHASE`, reads and
writes of the registers, the refusals of START and of a command, and the state after reset. -/

namespace Sys2Proof.Machine

open Sys2Proof

/-! ### `STATUS` (R28) -/

theorem busy_iff {s : State} : s.busy = true ↔ s.phase ≠ .idle ∧ s.phase ≠ .done := by
  simp [State.busy, phaseBusy]

theorem busy_eq_false_iff {s : State} : s.busy = false ↔ s.phase = .idle ∨ s.phase = .done := by
  rw [← Bool.not_eq_true, busy_iff, not_and_or, not_not, not_not]

theorem isDone_iff {s : State} : s.isDone = true ↔ s.phase = .done := by
  simp [State.isDone]

theorem status_getLsbD_busy (s : State) : s.status.getLsbD 0 = s.busy := by
  rw [State.status, BitVec.getLsbD_setWidth, BitVec.getLsbD_append]
  simp

theorem status_getLsbD_done (s : State) : s.status.getLsbD 1 = s.isDone := by
  rw [State.status, BitVec.getLsbD_setWidth, BitVec.getLsbD_append]
  simp

theorem status_getLsbD_of_two_le (s : State) {j : Nat} (hj : 2 ≤ j) : s.status.getLsbD j = false := by
  rw [State.status, BitVec.getLsbD_setWidth, BitVec.getLsbD_of_ge _ j hj, Bool.and_false]

theorem status_reset : State.reset.status = 0 := by
  decide

/-- Settles O55: the bits of `STATUS` are `BUSY` and `DONE`, which are never both set. -/
theorem statusIsAViewOfPhase : Obligations.StatusIsAViewOfPhase := by
  refine ⟨fun s => ⟨?_, ?_, fun j hj => status_getLsbD_of_two_le s hj, ?_⟩, status_reset,
    fun s v rest hturns => step_of_turns hturns⟩
  · rw [status_getLsbD_busy, Bool.eq_iff_iff, decide_eq_true_iff, busy_iff]
  · rw [status_getLsbD_done, Bool.eq_iff_iff, decide_eq_true_iff, isDone_iff]
  · rw [status_getLsbD_busy, status_getLsbD_done, busy_iff, isDone_iff]
    exact fun ⟨⟨_, hnotDone⟩, hdone⟩ => hnotDone hdone

/-! ### Host writes (R23 to R27, R30) -/

section HostWrites

variable {s : State} (v : BitVec 64)

theorem hostWrite_ptr (h : s.busy = false) : s.hostWrite .ptr v = .next (s.writePtr v) := by
  simp [State.hostWrite, h]

theorem hostWrite_len (h : s.busy = false) : s.hostWrite .len v = .next (s.writeLen v) := by
  simp [State.hostWrite, h]

theorem hostWrite_seed (h : s.busy = false) : s.hostWrite .seed v = .next (s.writeSeed (BitVec.ofNat 32 v.toNat)) := by
  simp [State.hostWrite, h]

theorem hostWrite_ctrl (h : s.busy = false) : s.hostWrite .ctrl v = .next s := by
  simp [State.hostWrite, h]

theorem hostWrite_of_busy {r : HostReg} (hr : r = .ptr ∨ r = .len ∨ r = .seed ∨ r = .ctrl) (h : s.busy = true) :
    s.hostWrite r v = .refused .hostWriteWhileBusy := by
  obtain rfl | rfl | rfl | rfl := hr
  · exact if_pos h
  · exact if_pos h
  · exact if_pos h
  · exact if_pos h

/-- A write that is no START is a host write. -/
theorem doTurn_write {r : HostReg} (s : State) (h : isStart r v = false) : doTurn (.write r v) s = s.hostWrite r v := by
  simp [doTurn, h]

theorem isStart_iff {r : HostReg} : isStart r v = true ↔ r = .ctrl ∧ v.getLsbD 0 = true := by
  simp [isStart]

theorem exec_start_of_busy (reserved : BitVec 31) (h : s.busy = true) :
    exec (.start reserved) s = .refused .hostWriteWhileBusy := by
  change s.startCommand = _
  simp [State.startCommand, State.startRefusal, h]

/-- While `BUSY` the four writes of R30 are refused, one to `CTRL` whether or not it is a START (log 11). -/
theorem doTurn_write_of_busy {r : HostReg} (hr : r = .ptr ∨ r = .len ∨ r = .seed ∨ r = .ctrl) (h : s.busy = true) :
    doTurn (.write r v) s = .refused .hostWriteWhileBusy := by
  cases hstart : isStart r v with
  | true =>
    obtain ⟨rfl, hbit⟩ := (isStart_iff v).mp hstart
    rw [doTurn_write_start s hbit, exec_start_of_busy _ h]
  | false => rw [doTurn_write v s hstart, hostWrite_of_busy v hr h]

end HostWrites

/-- Settles O56: each register's write, and the refusals while `BUSY`. -/
theorem hostWritesReachTheirRegister : Obligations.HostWritesReachTheirRegister := by
  intro s v rest
  refine ⟨fun hbusy hturns => ?_, fun hbusy hturns => ?_, fun hbusy hturns => ?_, fun hbusy hbit hturns => ?_,
    fun hturns => step_of_turns hturns, fun r hr hbusy hturns => ?_⟩
  · exact (step_of_turns hturns).trans (hostWrite_ptr v hbusy)
  · exact (step_of_turns hturns).trans (hostWrite_len v hbusy)
  · exact (step_of_turns hturns).trans (hostWrite_seed v hbusy)
  · have hstart : isStart .ctrl v = false := by simpa [isStart] using hbit
    exact (step_of_turns hturns).trans ((doTurn_write v _ hstart).trans (hostWrite_ctrl v hbusy))
  · exact (step_of_turns hturns).trans (doTurn_write_of_busy v hr hbusy)

/-! ### Host reads (R23 to R29, R207) -/

section HostReads

variable {s : State}

theorem hostRead_ptr (h : s.ptrWritten = true) : (s.hostRead .ptr).result = s.ptr := by
  simp [State.hostRead, h]

theorem hostRead_len (h : s.lenWritten = true) : (s.hostRead .len).result = s.len := by
  simp [State.hostRead, h]

theorem hostRead_seed (h : s.seedWritten = true) : (s.hostRead .seed).result = BitVec.ofNat 64 s.seed.toNat := by
  simp [State.hostRead, h]

theorem hostRead_status (s : State) : (s.hostRead .status).result = BitVec.ofNat 64 s.status.toNat := by
  simp [State.hostRead]

theorem hostRead_digest (h : s.phase = .done) : (s.hostRead .digest).result = BitVec.ofNat 64 s.digest.toNat := by
  simp [State.hostRead, isDone_iff.mpr h]

theorem toNat_setWidth_lt (w : Word) : (w.setWidth 64).toNat < 2 ^ 32 := by
  rw [BitVec.toNat_setWidth_of_le (by omega)]
  exact w.isLt

/-- A register of 32 bits reads with zeros above, a free value in its place too (log 25). -/
theorem hostRead_narrow (s : State) {r : HostReg} (hptr : r ≠ .ptr) (hlen : r ≠ .len) :
    (s.hostRead r).result.toNat < 2 ^ 32 := by
  cases r with
  | ptr => exact absurd rfl hptr
  | len => exact absurd rfl hlen
  | seed =>
    rw [State.hostRead]
    split
    · exact toNat_setWidth_lt s.seed
    · exact toNat_setWidth_lt (Config.freeWord s.draws)
  | ctrl => exact Nat.two_pow_pos 32
  | status => exact toNat_setWidth_lt s.status
  | digest =>
    rw [State.hostRead]
    split
    · exact toNat_setWidth_lt s.digest
    · exact toNat_setWidth_lt (Config.freeWord s.draws)

end HostReads

/-- Settles O57: what each register answers, and that a read writes nothing but the answer. -/
theorem hostReadsAnswerTheRegister : Obligations.HostReadsAnswerTheRegister := by
  intro s r rest hturns
  refine ⟨State.hostRead { s with turns := rest } r, step_of_turns hturns, hostRead_eq _ r, ?_, ?_, ?_, ?_, ?_, ?_,
    hostRead_narrow _⟩
  · rintro rfl hwritten
    exact hostRead_ptr hwritten
  · rintro rfl hwritten
    exact hostRead_len hwritten
  · rintro rfl hwritten
    exact hostRead_seed hwritten
  · rintro rfl
    rfl
  · rintro rfl
    exact hostRead_status _
  · rintro rfl hdone
    exact hostRead_digest hdone

/-! ### Refusals of START and of a command (R30, R51, R102, R202) -/

theorem exec_hash32_of_busy {s : State} (ptr : Addr) (len : Len) (seed : Word) (h : s.busy = true) :
    exec (.hash32 ptr len seed) s = .refused .hostWriteWhileBusy :=
  if_pos h

theorem bufferFits_eq_false {s : State} (h : 2 ^ 64 < s.ptr.toNat + s.len.toNat) : s.bufferFits = false :=
  decide_eq_false (Nat.not_le.mpr h)

theorem exec_hash32_of_wraps {s : State} {ptr : Addr} {len : Len} (seed : Word) (hidle : s.busy = false)
    (hwraps : 2 ^ 64 < ptr.toNat + len.toNat) : exec (.hash32 ptr len seed) s = .refused .bufferWraps := by
  have hfits : (s.writeOperands ptr len seed).bufferFits = false := bufferFits_eq_false hwraps
  change s.runPath (lengthClass len) ptr len seed = _
  simp [State.runPath, hidle, hfits]

theorem operandsWritten_iff {s : State} :
    s.operandsWritten = true ↔
      s.lenWritten = true ∧ s.seedWritten = true ∧ (s.ptrWritten = true ∨ s.len.toNat = 0) := by
  simp [State.operandsWritten, and_assoc, ← BitVec.toNat_inj]

theorem exec_start_of_unwritten {s : State} (reserved : BitVec 31) (hidle : s.busy = false)
    (hunwritten : s.operandsWritten = false) : exec (.start reserved) s = .refused .operandUnwritten := by
  change s.startCommand = _
  simp [State.startCommand, State.startRefusal, hidle, hunwritten]

theorem exec_start_of_wraps {s : State} (reserved : BitVec 31) (hidle : s.busy = false)
    (hwritten : s.operandsWritten = true) (hfits : s.bufferFits = false) :
    exec (.start reserved) s = .refused .bufferWraps := by
  change s.startCommand = _
  simp [State.startCommand, State.startRefusal, hidle, hwritten, hfits]

/-- Settles O22: the three reasons, each under its name. -/
theorem startOrCommandIsRefused : Obligations.StartOrCommandIsRefused := by
  refine ⟨fun s ptr len seed => ⟨exec_hash32_of_busy ptr len seed, exec_hash32_of_wraps seed⟩,
    fun s reserved => ⟨fun hidle hdone => ?_, fun hphase hunwritten => ?_, fun hphase hlen hseed hptr hwraps => ?_⟩⟩
  · exact exec_start_of_busy reserved (busy_iff.mpr ⟨hidle, hdone⟩)
  · refine exec_start_of_unwritten reserved (busy_eq_false_iff.mpr hphase) ?_
    rw [← Bool.not_eq_true, operandsWritten_iff]
    rintro ⟨hlen, hseed, hptr⟩
    rcases hunwritten with h | h | ⟨h, hne⟩
    · simp [h] at hlen
    · simp [h] at hseed
    · simp [h, hne] at hptr
  · exact exec_start_of_wraps reserved (busy_eq_false_iff.mpr hphase)
      (operandsWritten_iff.mpr ⟨hlen, hseed, .inl hptr⟩) (bufferFits_eq_false hwraps)

/-! ### The state after reset (R41, R59, R200) -/

/-- Settles O46: the memory is empty, `PHASE` is `IDLE` and fits every length, and the core is not busy. -/
theorem resetIsConsistent : Obligations.ResetIsConsistent :=
  ⟨State.reset_wf, rfl, nofun⟩

theorem Memory.byteAt_nil (addr : Nat) : Memory.byteAt [] addr = none :=
  ite_self none

/-- Settles O59: what R41 and R200 give a value, and the empty memory, of which no byte is readable. -/
theorem resetStateIsAsStated : Obligations.ResetStateIsAsStated :=
  ⟨rfl, status_reset, rfl, rfl, Memory.byteAt_nil⟩

end Sys2Proof.Machine
end

section
/-! PROOFS. The digest is a function of the bytes of the buffer, the length, the seed and the constants (R38, R101):
each read of a command lies inside the buffer, and so answers alike over two buffers that hold the same bytes. -/

namespace Sys2Proof.Machine

open Sys2Proof

/-- Two buffers of one length that read alike at every offset inside it, wherever they lie. -/
structure Buffer.Alike (b b' : Buffer) : Prop where
  len_eq : b'.len = b.len
  byteAt_eq : ∀ off, off < b.len.toNat → b'.mem.byteAt (b'.addr off) = b.mem.byteAt (b.addr off)

/-! ### Lengths and block counts -/

theorem lengthClass_cases (len : Len) :
    (lengthClass len = .tiny0 ∧ len.toNat = 0) ∨
    (lengthClass len = .tiny14 ∧ 1 ≤ len.toNat ∧ len.toNat ≤ 4) ∨
    (lengthClass len = .short ∧ 5 ≤ len.toNat ∧ len.toNat ≤ 16) ∨
    (lengthClass len = .medium ∧ 17 ≤ len.toNat ∧ len.toNat ≤ 127) ∨
    (lengthClass len = .long ∧ 128 ≤ len.toNat) := by
  unfold lengthClass
  grind

theorem toNat_sub_one_div {len : Len} (c : Len) (hlen : 1 ≤ len.toNat) :
    ((len - 1) / c).toNat = (len.toNat - 1) / c.toNat := by
  rw [BitVec.toNat_udiv, BitVec.toNat_sub_of_le (BitVec.le_def.mpr (by simpa using hlen))]
  simp

theorem mediumBlocks_toNat {len : Len} (hlen : 1 ≤ len.toNat) : (mediumBlocks len).toNat = (len.toNat - 1) / 16 :=
  toNat_sub_one_div 16 hlen

theorem longBlocks_toNat {len : Len} (hlen : 1 ≤ len.toNat) : (longBlocks len).toNat = (len.toNat - 1) / 128 :=
  toNat_sub_one_div 128 hlen

/-- The four words of the short path lie inside its buffer (R121). -/
theorem shortOffset_inside {len : Len} (h5 : 5 ≤ len.toNat) (h16 : len.toNat ≤ 16) {i : Nat} (hi : i < 4) :
    ∃ p, shortOffset len i = some p ∧ p + 4 ≤ len.toNat := by
  have hstride : shortStride len + 4 ≤ len.toNat := by
    unfold shortStride
    omega
  match i with
  | 0 => exact ⟨0, rfl, by omega⟩
  | 1 => exact ⟨shortStride len, rfl, hstride⟩
  | 2 => exact ⟨_, lenMinus_stated (by omega), by omega⟩
  | 3 => exact ⟨_, lenMinus_stated (by omega), by omega⟩

namespace Buffer.Alike

variable {b b' : Buffer} {c : Consts} {seed : Word}

/-! ### Reads inside the buffer -/

theorem byte (h : b.Alike b') {off : Nat} {v : Byte} (hoff : off < b.len.toNat) (hv : b.byte off = .ok v) :
    b'.byte off = .ok v :=
  byte_ok.mpr ((h.byteAt_eq off hoff).trans (byte_ok.mp hv))

theorem word (h : b.Alike b') {off : Nat} {w : Word} (hoff : off + 4 ≤ b.len.toNat) (hw : b.word off = .ok w) :
    b'.word off = .ok w := by
  obtain ⟨v0, v1, v2, v3, h0, h1, h2, h3, hword⟩ := memRead4_ok.mp hw
  exact memRead4_ok.mpr ⟨v0, v1, v2, v3, (h.byteAt_eq off (by omega)).trans h0,
    (h.byteAt_eq (off + 1) (by omega)).trans h1, (h.byteAt_eq (off + 2) (by omega)).trans h2,
    (h.byteAt_eq (off + 3) (by omega)).trans h3, hword⟩

theorem words (h : b.Alike b') {n : Nat} {off : Nat → Offset} {ws : Vector Word n}
    (hoff : ∀ i < n, ∃ p, off i = some p ∧ p + 4 ≤ b.len.toNat) (hws : b.words n off = .ok ws) :
    b'.words n off = .ok ws := by
  refine words_ok.mpr fun i hi => ?_
  obtain ⟨p, hp, hinside⟩ := hoff i hi
  have hword := words_ok.mp hws i hi
  rw [hp, wordAt_some] at hword ⊢
  exact h.word hinside hword

theorem absorb (h : b.Alike b') {n p : Nat} {acc acc' : Vector Word n} {i : Intensity}
    (hp : p + 4 * n ≤ b.len.toNat) (ha : b.absorb c acc (some p) i = .ok acc') :
    b'.absorb c acc (some p) i = .ok acc' := by
  obtain ⟨w, hw, hacc⟩ := absorb_ok.mp ha
  exact absorb_ok.mpr ⟨w, h.words (fun i _ => ⟨p + 4 * i, rfl, by omega⟩) hw, hacc⟩

theorem packTiny (h : b.Alike b') {w : Word} (hlen : 1 ≤ b.len.toNat) (hw : b.packTiny = .ok w) :
    b'.packTiny = .ok w := by
  obtain ⟨first, last, mid1, mid2, hfirst, hlast, hmid1, hmid2, hword⟩ := packTiny_ok.mp hw
  refine packTiny_ok.mpr ⟨first, last, mid1, mid2, h.byte (by omega) hfirst, ?_, ?_, ?_, hword⟩
  · rw [h.len_eq]
    rw [lenMinus_stated hlen, byteAt_some] at hlast ⊢
    exact h.byte (by omega) hlast
  · rw [h.len_eq]
    exact h.byte (by omega) hmid1
  · rw [h.len_eq]
    exact h.byte (by omega) hmid2

/-! ### The five paths -/

theorem tiny14Digest (h : b.Alike b') {d : Word} (hlen : 1 ≤ b.len.toNat) (hd : tiny14Digest c b seed = .ok d) :
    tiny14Digest c b' seed = .ok d := by
  obtain ⟨w, hw, hdigest⟩ := bind_ok.mp hd
  refine bind_ok.mpr ⟨w, h.packTiny hlen hw, ?_⟩
  rwa [h.len_eq]

theorem shortDigest (h : b.Alike b') {d : Word} (h5 : 5 ≤ b.len.toNat) (h16 : b.len.toNat ≤ 16)
    (hd : shortDigest c b seed = .ok d) : shortDigest c b' seed = .ok d := by
  obtain ⟨w, hw, hdigest⟩ := bind_ok.mp hd
  refine bind_ok.mpr ⟨w, ?_, ?_⟩
  · rw [h.len_eq]
    exact h.words (fun _ => shortOffset_inside h5 h16) hw
  · rwa [h.len_eq]

theorem mediumRounds (h : b.Alike b') (r k : Nat) {a a' : Vector Word 4} (hinside : 16 * (k + r) ≤ b.len.toNat)
    (ha : mediumRounds c b k r a = .ok a') : mediumRounds c b' k r a = .ok a' := by
  induction r generalizing k a with
  | zero => exact ha
  | succ r ih =>
    obtain ⟨a₁, hblock, hrest⟩ := bind_ok.mp ha
    exact bind_ok.mpr ⟨a₁, h.absorb (by omega) hblock, ih (k + 1) (by omega) hrest⟩

theorem mediumDigest (h : b.Alike b') {d : Word} (hlen : 17 ≤ b.len.toNat) (hd : mediumDigest c b seed = .ok d) :
    mediumDigest c b' seed = .ok d := by
  obtain ⟨a, hrounds, hrest⟩ := bind_ok.mp hd
  obtain ⟨a', htail, hdigest⟩ := bind_ok.mp hrest
  refine bind_ok.mpr ⟨a, ?_, bind_ok.mpr ⟨a', ?_, ?_⟩⟩
  · rw [h.len_eq]
    exact h.mediumRounds _ 0 (by rw [mediumBlocks_toNat (by omega)]; omega) hrounds
  · rw [h.len_eq]
    rw [lenMinus_stated (by omega)] at htail ⊢
    exact h.absorb (by omega) htail
  · rwa [h.len_eq]

theorem longRounds (h : b.Alike b') (r k : Nat) {acc acc' : Vector Word 32} (hinside : 128 * (k + r) ≤ b.len.toNat)
    (ha : longRounds c b k r acc = .ok acc') : longRounds c b' k r acc = .ok acc' := by
  induction r generalizing k acc with
  | zero => exact ha
  | succ r ih =>
    obtain ⟨acc₁, hblock, hrest⟩ := bind_ok.mp ha
    exact bind_ok.mpr ⟨acc₁, h.absorb (by omega) hblock, ih (k + 1) (by omega) hrest⟩

theorem longDigest (h : b.Alike b') {d : Word} (hlen : 128 ≤ b.len.toNat) (hd : longDigest c b seed = .ok d) :
    longDigest c b' seed = .ok d := by
  obtain ⟨acc, hrounds, hrest⟩ := bind_ok.mp hd
  obtain ⟨acc', htail, hdigest⟩ := bind_ok.mp hrest
  refine bind_ok.mpr ⟨acc, ?_, bind_ok.mpr ⟨acc', ?_, ?_⟩⟩
  · rw [h.len_eq]
    exact h.longRounds _ 0 (by rw [longBlocks_toNat (by omega)]; omega) hrounds
  · rw [h.len_eq]
    rw [lenMinus_stated hlen] at htail ⊢
    exact h.absorb (by omega) htail
  · rwa [h.len_eq]

/-- The path of the buffer's own class answers alike (R101). -/
theorem pathDigest (h : b.Alike b') {d : Word} (hd : pathDigest (lengthClass b.len) c b seed = .ok d) :
    pathDigest (lengthClass b.len) c b' seed = .ok d := by
  obtain ⟨hcls, -⟩ | ⟨hcls, h1, -⟩ | ⟨hcls, h5, h16⟩ | ⟨hcls, h17, -⟩ | ⟨hcls, h128⟩ := lengthClass_cases b.len
  · rw [hcls] at hd ⊢
    exact hd
  · rw [hcls] at hd ⊢
    exact h.tiny14Digest h1 hd
  · rw [hcls] at hd ⊢
    exact h.shortDigest h5 h16 hd
  · rw [hcls] at hd ⊢
    exact h.mediumDigest h17 hd
  · rw [hcls] at hd ⊢
    exact h.longDigest h128 hd

end Buffer.Alike

/-- Settles O45: two commands that complete end with the digest of the one path over buffers that read alike. -/
theorem digestDependsOnTheInputAlone : Obligations.DigestDependsOnTheInputAlone := by
  intro s s' t t' ptr ptr' len seed hconsts hbytes ht ht'
  obtain ⟨-, -, d, hd, rfl⟩ := runPath_next (cls := lengthClass len) ht
  obtain ⟨-, -, d', hd', rfl⟩ := runPath_next (cls := lengthClass len) ht'
  have halike : Buffer.Alike (s.writeOperands ptr len seed).accept.buffer
      (s'.writeOperands ptr' len seed).accept.buffer := ⟨rfl, fun off hoff => (hbytes off hoff).symm⟩
  rw [← hconsts] at hd'
  obtain rfl : d = d' := Except.ok.inj ((halike.pathDigest hd).symm.trans hd')
  exact ⟨rfl, rfl⟩

end Sys2Proof.Machine
end

section
/-! PROOFS. The buffer space as the function port and the platform see it (spec/20_memory.md): what `MemRead` answers
and where it is stuck, and that no turn but the platform's changes a byte. -/

namespace Sys2Proof.Machine

open Sys2Proof

/-! ### `MemRead` (R52, R53, R60) -/

theorem exec_memRead1 (addr : Addr) (s : State) :
    exec (.memRead1 addr) s =
      afterRead (memRead1 s.mem addr.toNat) fun b => .next (s.setResult (b.setWidth 64)) := rfl

theorem exec_memRead4 (addr : Addr) (s : State) :
    exec (.memRead4 addr) s =
      afterRead (memRead4 s.mem addr.toNat) fun w => .next (s.setResult (w.setWidth 64)) := rfl

/-- A word read that answers finds each of its four bytes readable. -/
theorem memRead4_readable {m : Memory} {addr : Nat} {w : Word} (h : memRead4 m addr = .ok w) {j : Nat} (hj : j < 4) :
    (m.byteAt (addr + j)).isSome = true := by
  obtain ⟨b0, b1, b2, b3, h0, h1, h2, h3, -⟩ := memRead4_ok.mp h
  match j with
  | 0 => exact Option.isSome_of_eq_some h0
  | 1 => exact Option.isSome_of_eq_some h1
  | 2 => exact Option.isSome_of_eq_some h2
  | 3 => exact Option.isSome_of_eq_some h3

/-- A word read over an unreadable byte is stuck, and the first such byte is the one it names. -/
theorem memRead4_of_first_unreadable {m : Memory} {addr j : Nat} (hj : j < 4)
    (hbefore : ∀ i < j, (m.byteAt (addr + i)).isSome = true) (hnone : m.byteAt (addr + j) = none) :
    memRead4 m addr = .error (.unreadable (addr + j)) := by
  cases hread : memRead4 m addr with
  | ok w => simpa [hnone] using memRead4_readable hread hj
  | error f =>
    obtain ⟨k, -, hbefore', hnone', rfl⟩ := memRead4_error hread
    have hle : k ≤ j := not_lt.mp fun hlt => by simpa [hnone] using hbefore' j hlt
    have hge : j ≤ k := not_lt.mp fun hlt => by simpa [hnone'] using hbefore k hlt
    rw [le_antisymm hle hge]

/-- Settles O19: a word read answers its bytes in the order of R50, or names the first that is not readable. -/
theorem memoryReadsAnswerTheBytes : Obligations.MemoryReadsAnswerTheBytes := by
  intro s addr
  refine ⟨fun b hb => ?_, fun hnone => ?_, fun b0 b1 b2 b3 h0 h1 h2 h3 => ?_, fun j hj hbefore hnone => ?_⟩
  · rw [exec_memRead1, memRead1_ok.mpr hb]
    rfl
  · rw [exec_memRead1, memRead1_error.mpr ⟨hnone, rfl⟩, afterRead_error]
  · rw [exec_memRead4, memRead4_ok.mpr ⟨b0, b1, b2, b3, h0, h1, h2, h3, rfl⟩, littleEndian_eq_append]
    rfl
  · rw [exec_memRead4, memRead4_of_first_unreadable hj hbefore hnone, afterRead_error]

/-! ### Who writes memory (R55, R56) -/

theorem State.worksTo.mem {s t : State} (h : s.worksTo t) : t.mem = s.mem := by
  rw [h.1]

theorem State.issuesTo.mem {s t : State} (h : s.issuesTo t) : t.mem = s.mem := by
  obtain ⟨-, rfl | ⟨ptr, len, seed, digest, rfl⟩⟩ := h
  · exact s.accept_mem
  · simp [State.afterCommand]

/-- No operation writes memory: not the core's, not a command, not a function. -/
theorem exec_mem {i : Instr} {s t : State} (h : exec i s = .next t) : t.mem = s.mem :=
  (exec_next h).elim State.worksTo.mem State.issuesTo.mem

theorem hostWrite_mem {s t : State} {r : HostReg} {v : BitVec 64} (h : s.hostWrite r v = .next t) :
    t.mem = s.mem := by
  obtain rfl | ⟨-, rfl | rfl | rfl⟩ := hostWrite_next h
  · rfl
  · exact s.writePtr_mem v
  · exact s.writeLen_mem v
  · exact s.writeSeed_mem _

theorem doTurn_mem {tn : Turn} {s t : State} (h : doTurn tn s = .next t) (hstore : ∀ addr b, tn ≠ .store addr b)
    (hrelease : ∀ addr, tn ≠ .release addr) : t.mem = s.mem := by
  rcases doTurn_next h with ⟨-, hop⟩ | ⟨w, -, hop⟩ | ⟨w, -, hop⟩ | ⟨v, -, -, hstart⟩ | ⟨r, v, -, -, hwrite⟩ |
    ⟨r, -, rfl⟩ | ⟨f, w, i, -, -, -, hop⟩ | ⟨addr, b, htn, -⟩ | ⟨addr, htn, -⟩ | ⟨-, rfl⟩
  · exact exec_mem hop
  · exact exec_mem hop
  · exact exec_mem hop
  · exact (issuesTo_of_startCommand hstart).mem
  · exact hostWrite_mem hwrite
  · rw [hostRead_eq]
  · exact exec_mem hop
  · exact absurd htn (hstore addr b)
  · exact absurd htn (hrelease addr)
  · exact s.resetEvent_mem

/-- Settles O51: every turn but the platform's two leaves the memory as it is. -/
theorem onlyThePlatformWritesMemory : Obligations.OnlyThePlatformWritesMemory := by
  intro s t h hstore hrelease
  rw [step_eq, nextTurn_state] at h
  have hmem := doTurn_mem h hstore hrelease
  exact ⟨hmem, fun addr => congrArg (Memory.byteAt · addr) hmem⟩

/-! ### What the platform writes (R56, R59, R205) -/

/-- The platform's turns are no moves exactly at a byte of a busy core's buffer (U2, log 15). -/
theorem busy_inBuffer_iff {s : State} {addr : Addr} : (s.busy && s.inBuffer addr) = true ↔
    s.busy = true ∧ s.ptr.toNat ≤ addr.toNat ∧ addr.toNat < s.ptr.toNat + s.len.toNat := by
  simp [State.inBuffer]

/-- Settles O58: the refusal inside a busy core's buffer, else the one byte written or withdrawn. -/
theorem platformWritesOneByte : Obligations.PlatformWritesOneByte := by
  intro s addr b rest inBuf
  refine ⟨fun hturns => ⟨fun hbusy => ?_, fun hfree => ?_⟩, fun hturns => ⟨fun hbusy => ?_, fun hfree => ?_⟩⟩
  · exact (step_of_turns hturns).trans (if_pos (busy_inBuffer_iff.mpr hbusy))
  · exact ⟨_, (step_of_turns hturns).trans (if_neg (busy_inBuffer_iff.not.mpr hfree)), rfl,
      s.mem.byteAt_store_same _ b addr.isLt, fun other hne => s.mem.byteAt_store_other _ other b hne⟩
  · exact (step_of_turns hturns).trans (if_pos (busy_inBuffer_iff.mpr hbusy))
  · exact ⟨_, (step_of_turns hturns).trans (if_neg (busy_inBuffer_iff.not.mpr hfree)), rfl,
      s.mem.byteAt_release_same _, fun other hne => s.mem.byteAt_release_other _ other hne⟩

end Sys2Proof.Machine
end

section
/-! PROOFS. The bytes the core reads (spec/20_memory.md R57, R58, R60): each operation as a function of the memory it
runs over, which reads the bytes of R57's table and no other. -/

namespace Sys2Proof.Machine

open Sys2Proof

/-! ### Reads over memories that agree on the bytes read -/

theorem memRead1_congr {m m' : Memory} {addr : Nat} (h : m'.byteAt addr = m.byteAt addr) :
    memRead1 m' addr = memRead1 m addr := by
  rw [memRead1, memRead1, h]

theorem memRead4_congr {m m' : Memory} {addr : Nat} (h : ∀ j < 4, m'.byteAt (addr + j) = m.byteAt (addr + j)) :
    memRead4 m' addr = memRead4 m addr := by
  simp only [memRead4, memRead1_congr (addr := addr) (h 0 (by omega)), memRead1_congr (h 1 (by omega)),
    memRead1_congr (h 2 (by omega)), memRead1_congr (h 3 (by omega))]

section Congr

variable {b : Buffer} {m : Memory}

theorem byte_congr {off : Nat} (h : m.byteAt (b.addr off) = b.mem.byteAt (b.addr off)) :
    { b with mem := m }.byte off = b.byte off :=
  memRead1_congr h

theorem wordAt_congr {j : Nat} {off : Offset}
    (h : ∀ p o, off = some p → p ≤ o → o < p + 4 → m.byteAt (b.addr o) = b.mem.byteAt (b.addr o)) :
    { b with mem := m }.wordAt j off = b.wordAt j off := by
  cases off with
  | none => rfl
  | some p =>
    refine memRead4_congr fun i hi => ?_
    have := h p (p + i) rfl (by omega) (by omega)
    rwa [Buffer.addr, ← Nat.add_assoc] at this

theorem words_congr {n : Nat} {off : Nat → Offset}
    (h : ∀ i < n, ∀ p o, off i = some p → p ≤ o → o < p + 4 → m.byteAt (b.addr o) = b.mem.byteAt (b.addr o)) :
    { b with mem := m }.words n off = b.words n off := by
  induction n with
  | zero => rfl
  | succ n ih => rw [Buffer.words, Buffer.words, ih fun i hi => h i (by omega), wordAt_congr (h n (by omega))]

theorem absorb_congr {n p : Nat} (c : Consts) (acc : Vector Word n) (i : Intensity)
    (h : ∀ o, p ≤ o → o < p + 4 * n → m.byteAt (b.addr o) = b.mem.byteAt (b.addr o)) :
    { b with mem := m }.absorb c acc (some p) i = b.absorb c acc (some p) i := by
  have hwords : { b with mem := m }.words n (blockOffset (some p)) = b.words n (blockOffset (some p)) := by
    refine words_congr fun j hj q o hq h1 h2 => h o ?_ ?_
    all_goals
      rw [blockOffset_some, Option.some.injEq] at hq
      omega
  rw [Buffer.absorb, Buffer.absorb, hwords]

theorem packTiny_congr (hlen : 1 ≤ b.len.toNat)
    (h : ∀ o, (o = 0 ∨ o = b.len.toNat - 1 ∨ o = b.len.toNat / 2 ∨ o = b.len.toNat / 4) →
      m.byteAt (b.addr o) = b.mem.byteAt (b.addr o)) :
    { b with mem := m }.packTiny = b.packTiny := by
  simp only [Buffer.packTiny, lenMinus_stated hlen, byteAt_some, byte_congr (h 0 (.inl rfl)),
    byte_congr (h _ (.inr (.inl rfl))), byte_congr (h _ (.inr (.inr (.inl rfl)))),
    byte_congr (h _ (.inr (.inr (.inr rfl))))]

end Congr

/-! ### What `PHASE` says of the length and of `K` (R105) -/

theorem len_of_tiny14 {len : Len} (h : lengthClass len = .tiny14) : 1 ≤ len.toNat ∧ len.toNat ≤ 4 := by
  simpa [h] using lengthClass_cases len

theorem len_of_short {len : Len} (h : lengthClass len = .short) : 5 ≤ len.toNat ∧ len.toNat ≤ 16 := by
  simpa [h] using lengthClass_cases len

theorem len_of_medium {len : Len} (h : lengthClass len = .medium) : 17 ≤ len.toNat ∧ len.toNat ≤ 127 := by
  simpa [h] using lengthClass_cases len

theorem len_of_long {len : Len} (h : lengthClass len = .long) : 128 ≤ len.toNat := by
  simpa [h] using lengthClass_cases len

section Fits

variable {s : State}

theorem fits_tiny14 (hphase : s.phase = .tiny14) (hfits : s.phaseFits = true) : 1 ≤ s.len.toNat := by
  simp only [State.phaseFits, hphase, decide_eq_true_eq] at hfits
  exact (len_of_tiny14 hfits).1

theorem fits_shortAbsorb (hphase : s.phase = .shortAbsorb) (hfits : s.phaseFits = true) :
    5 ≤ s.len.toNat ∧ s.len.toNat ≤ 16 := by
  simp only [State.phaseFits, hphase, decide_eq_true_eq] at hfits
  exact len_of_short hfits

theorem fits_medRound (hphase : s.phase = .medRound) (hfits : s.phaseFits = true) :
    s.k.toNat < (s.len.toNat - 1) / 16 := by
  simp only [State.phaseFits, hphase, Bool.and_eq_true, decide_eq_true_eq] at hfits
  obtain ⟨⟨hcls, hnb⟩, hk⟩ := hfits
  obtain ⟨hlen, -⟩ := len_of_medium hcls
  rwa [hnb, mediumBlocks_toNat (by omega)] at hk

theorem fits_medTail (hphase : s.phase = .medTail) (hfits : s.phaseFits = true) : 16 ≤ s.len.toNat := by
  simp only [State.phaseFits, hphase, Bool.and_eq_true, decide_eq_true_eq] at hfits
  obtain ⟨⟨hcls, -⟩, -⟩ := hfits
  obtain ⟨hlen, -⟩ := len_of_medium hcls
  omega

theorem fits_longRound (hphase : s.phase = .longRound) (hfits : s.phaseFits = true) :
    s.k.toNat < (s.len.toNat - 1) / 128 := by
  simp only [State.phaseFits, hphase, Bool.and_eq_true, decide_eq_true_eq] at hfits
  obtain ⟨⟨hcls, hnb⟩, hk⟩ := hfits
  have hlen := len_of_long hcls
  rwa [hnb, longBlocks_toNat (by omega)] at hk

theorem fits_longTail (hphase : s.phase = .longTail) (hfits : s.phaseFits = true) : 128 ≤ s.len.toNat := by
  simp only [State.phaseFits, hphase, Bool.and_eq_true, decide_eq_true_eq] at hfits
  obtain ⟨⟨hcls, -⟩, -⟩ := hfits
  exact len_of_long hcls

end Fits

/-! ### The table of R57, row by row -/

section Table

variable {s : State}

theorem reads_tiny14 (h : s.phase = .tiny14) (off : Nat) : s.reads off ↔
    off = 0 ∨ off = s.len.toNat - 1 ∨ off = s.len.toNat / 2 ∨ off = s.len.toNat / 4 := by
  simp only [State.reads, h]

/-- The offsets of R121 are those of the table. -/
theorem shortOffset_eq_table {len : Len} (h5 : 5 ≤ len.toNat) (h16 : len.toNat ≤ 16) {i : Nat} (hi : i < 4) :
    shortOffset len i =
      [0, len.toNat / 8 * 4, len.toNat - 4, len.toNat - 4 - len.toNat / 8 * 4][i]? := by
  have hstride : shortStride len + 4 ≤ len.toNat := by
    unfold shortStride
    omega
  match i with
  | 0 => rfl
  | 1 => rfl
  | 2 => exact lenMinus_stated (by omega)
  | 3 => exact (lenMinus_stated (by omega)).trans (congrArg some (Nat.sub_add_eq ..))

theorem reads_shortAbsorb (h : s.phase = .shortAbsorb) (hfits : s.phaseFits = true) (off : Nat) :
    s.reads off ↔ ∃ i < 4, ∃ p, shortOffset s.len i = some p ∧ p ≤ off ∧ off < p + 4 := by
  obtain ⟨h5, h16⟩ := fits_shortAbsorb h hfits
  simp only [State.reads, h, List.mem_iff_getElem?]
  constructor
  · rintro ⟨p, ⟨i, hp⟩, hoff⟩
    have hi : i < 4 := (List.getElem?_eq_some_iff.mp hp).1
    exact ⟨i, hi, p, (shortOffset_eq_table h5 h16 hi).trans hp, hoff⟩
  · rintro ⟨i, hi, p, hp, hoff⟩
    exact ⟨p, ⟨i, (shortOffset_eq_table h5 h16 hi).symm.trans hp⟩, hoff⟩

theorem reads_medRound (h : s.phase = .medRound) (off : Nat) :
    s.reads off ↔ 16 * s.k.toNat ≤ off ∧ off < 16 * s.k.toNat + 4 * 4 := by
  simp only [State.reads, h]

theorem reads_medTail (h : s.phase = .medTail) (hfits : s.phaseFits = true) (off : Nat) :
    s.reads off ↔ s.len.toNat - 16 ≤ off ∧ off < s.len.toNat - 16 + 4 * 4 := by
  have := fits_medTail h hfits
  simp only [State.reads, h]
  omega

theorem reads_longRound (h : s.phase = .longRound) (off : Nat) :
    s.reads off ↔ 128 * s.k.toNat ≤ off ∧ off < 128 * s.k.toNat + 4 * 32 := by
  simp only [State.reads, h]

theorem reads_longTail (h : s.phase = .longTail) (hfits : s.phaseFits = true) (off : Nat) :
    s.reads off ↔ s.len.toNat - 128 ≤ off ∧ off < s.len.toNat - 128 + 4 * 32 := by
  have := fits_longTail h hfits
  simp only [State.reads, h]
  omega

/-- Every byte of the table lies inside the buffer (R51, R58). -/
theorem reads_inside (hfits : s.phaseFits = true) {off : Nat} (h : s.reads off) : off < s.len.toNat := by
  cases hphase : s.phase with
  | tiny14 =>
    have hlen := fits_tiny14 hphase hfits
    rw [reads_tiny14 hphase] at h
    omega
  | shortAbsorb =>
    obtain ⟨h5, h16⟩ := fits_shortAbsorb hphase hfits
    obtain ⟨i, hi, p, hp, -, hoff⟩ := (reads_shortAbsorb hphase hfits off).mp h
    obtain ⟨q, hq, hinside⟩ := shortOffset_inside h5 h16 hi
    obtain rfl : p = q := Option.some.inj (hp.symm.trans hq)
    omega
  | medRound =>
    have hk := fits_medRound hphase hfits
    rw [reads_medRound hphase] at h
    omega
  | medTail =>
    have hlen := fits_medTail hphase hfits
    rw [reads_medTail hphase hfits] at h
    omega
  | longRound =>
    have hk := fits_longRound hphase hfits
    rw [reads_longRound hphase] at h
    omega
  | longTail =>
    have hlen := fits_longTail hphase hfits
    rw [reads_longTail hphase hfits] at h
    omega
  | idle | dispatch | tiny0 | smInit | smFinal | longInit | longMerge | done => simp [State.reads, hphase] at h

end Table

/-! ### An operation as a function of the memory -/

/-- `s` over another memory. -/
def State.over (s : State) (m : Memory) : State := { s with mem := m }

/-- `m` reads as the memory of `s` does at the bytes of R57's table. -/
def State.agreesWith (s : State) (m : Memory) : Prop :=
  ∀ off, s.reads off → m.byteAt (s.ptr.toNat + off) = s.mem.byteAt (s.ptr.toNat + off)

/-- A fault at a byte of R57's table that is not readable (R60). -/
def State.stuckAt (s : State) (f : Fault) : Prop :=
  ∃ off, s.reads off ∧ f = .unreadable (s.ptr.toNat + off) ∧ s.mem.byteAt (s.ptr.toNat + off) = none

/-- All bytes of R57's table are readable. -/
def State.tableReadable (s : State) : Prop := ∀ off, s.reads off → (s.mem.byteAt (s.ptr.toNat + off)).isSome = true

/-- `read`, over the memory of `s`, reads the bytes of R57's table and no other. -/
structure State.ReadsTable {α : Type} (s : State) (read : Memory → Except Fault α) : Prop where
  readable : ∀ v, read s.mem = .ok v → s.tableReadable
  congr : ∀ m, s.agreesWith m → read m = read s.mem
  stuck : ∀ f, read s.mem = .error f → s.stuckAt f

/-- `run`, over the memory of `s`, goes on where the bytes of R57's table are readable, the same over each memory that
agrees on them, or is stuck at one of them. -/
structure State.RunsOnTable (s : State) (run : Memory → Host.Outcome State Fault Refusal) : Prop where
  next : ∀ t, run s.mem = .next t → s.tableReadable ∧ ∀ m, s.agreesWith m → run m = .next (t.over m)
  fault : ∀ f, run s.mem = .fault f → s.stuckAt f
  refused : ∀ r, run s.mem ≠ .refused r

section Runs

variable {s : State} {run : Memory → Host.Outcome State Fault Refusal}

theorem runsOnTable_of_read {α : Type} {read : Memory → Except Fault α}
    {k : Memory → α → Host.Outcome State Fault Refusal} (hread : s.ReadsTable read)
    (hrun : ∀ m, run m = afterRead (read m) (k m))
    (hk : ∀ v, ∃ t, k s.mem v = .next t ∧ ∀ m, k m v = .next (t.over m)) : s.RunsOnTable run where
  next t ht := by
    obtain ⟨v, hv, hvt⟩ := afterRead_next ((hrun _).symm.trans ht)
    obtain ⟨u, hu, hover⟩ := hk v
    obtain rfl : u = t := Host.Outcome.next.inj (hu.symm.trans hvt)
    refine ⟨hread.readable v hv, fun m hm => ?_⟩
    rw [hrun, hread.congr m hm, hv, afterRead_ok, hover]
  fault f hf := by
    obtain h | ⟨v, -, hv⟩ := afterRead_fault ((hrun _).symm.trans hf)
    · exact hread.stuck f h
    · obtain ⟨u, hu, -⟩ := hk v
      cases hu.symm.trans hv
  refused r hr := by
    obtain ⟨v, -, hv⟩ := afterRead_refused ((hrun _).symm.trans hr)
    obtain ⟨u, hu, -⟩ := hk v
    cases hu.symm.trans hv

/-- An operation without a row in R57's table, whose next state is the same over every memory. -/
theorem runsOnTable_of_next {t : State} (hnone : ∀ off, ¬s.reads off) (ht : run s.mem = .next t)
    (hrun : ∀ m, run m = .next (t.over m)) : s.RunsOnTable run :=
  runsOnTable_of_read (read := fun _ => .ok ()) (k := fun m _ => run m)
    ⟨fun _ _ off hoff => absurd hoff (hnone off), fun _ _ => rfl, fun _ h => nomatch h⟩ (fun _ => rfl)
    fun _ => ⟨t, ht, hrun⟩

/-- An operation that absorbs the block at `p`, where that block is its row of R57's table. -/
theorem readsTable_absorb {n p : Nat} {base : Offset} (hbase : base = some p)
    (hreads : ∀ off, s.reads off ↔ p ≤ off ∧ off < p + 4 * n) (acc : Vector Word n) (i : Intensity) :
    s.ReadsTable fun m => (s.over m).buffer.absorb s.consts acc base i := by
  subst hbase
  refine ⟨fun v hv off hoff => ?_, fun m hm => ?_, fun f hf => ?_⟩
  · obtain ⟨h1, h2⟩ := (hreads off).mp hoff
    exact absorb_readable hv off h1 h2
  · exact absorb_congr (b := s.buffer) s.consts acc i fun o h1 h2 => hm o ((hreads o).mpr ⟨h1, h2⟩)
  · obtain ⟨q, o, hq, h1, h2, hnone, hf⟩ := absorb_error hf
    cases hq
    exact ⟨o, (hreads o).mpr ⟨h1, h2⟩, hf, hnone⟩

theorem readsTable_packTiny (hphase : s.phase = .tiny14) (hfits : s.phaseFits = true) :
    s.ReadsTable fun m => (s.over m).buffer.packTiny := by
  have hlen := fits_tiny14 hphase hfits
  have hreads := reads_tiny14 hphase
  refine ⟨fun v hv off hoff => ?_, fun m hm => ?_, fun f hf => ?_⟩
  · obtain ⟨first, last, mid1, mid2, hfirst, hlast, hmid1, hmid2, -⟩ := packTiny_ok.mp hv
    change (s.over s.mem).buffer.byteAt 0 (lenMinus s.len 1) = _ at hlast
    rw [lenMinus_stated hlen, byteAt_some] at hlast
    obtain rfl | rfl | rfl | rfl := (hreads off).mp hoff
    · exact Option.isSome_of_eq_some (byte_ok.mp hfirst)
    · exact Option.isSome_of_eq_some (byte_ok.mp hlast)
    · exact Option.isSome_of_eq_some (byte_ok.mp hmid1)
    · exact Option.isSome_of_eq_some (byte_ok.mp hmid2)
  · exact packTiny_congr (b := s.buffer) hlen fun o ho => hm o ((hreads o).mpr ho)
  · obtain ⟨o, ho, hnone, hf⟩ := packTiny_error hf
    change o = 0 ∨ lenMinus s.len 1 = some o ∨ _ at ho
    rw [lenMinus_stated hlen, Option.some.injEq, eq_comm (b := o)] at ho
    exact ⟨o, (hreads o).mpr ho, hf, hnone⟩

theorem readsTable_shortWords (hphase : s.phase = .shortAbsorb) (hfits : s.phaseFits = true) :
    s.ReadsTable fun m => (s.over m).buffer.words 4 (shortOffset s.len) := by
  have hreads := reads_shortAbsorb hphase hfits
  refine ⟨fun v hv off hoff => ?_, fun m hm => ?_, fun f hf => ?_⟩
  · obtain ⟨i, hi, p, hp, h1, h2⟩ := (hreads off).mp hoff
    exact wordAt_readable (hp ▸ words_ok.mp hv i hi) off h1 h2
  · exact words_congr (b := s.buffer) fun i hi p o hp h1 h2 => hm o ((hreads o).mpr ⟨i, hi, p, hp, h1, h2⟩)
  · obtain ⟨i, hi, he⟩ := words_error hf
    obtain ⟨p, o, hp, h1, h2, hnone, hf⟩ := wordAt_error he
    exact ⟨o, (hreads o).mpr ⟨i, hi, p, hp, h1, h2⟩, hf, hnone⟩

end Runs

/-! ### The core's operations -/

section Core

variable {s : State}

/-- Every operation of `PHASE`, where `PHASE` fits the length, runs on its row of R57's table. -/
theorem exec_runsOnTable (hfits : s.phaseFits = true) : s.RunsOnTable fun m => exec s.phase.operation (s.over m) := by
  cases hphase : s.phase with
  | idle | dispatch | tiny0 | smFinal | longInit | longMerge | done =>
    exact runsOnTable_of_next (by simp [State.reads, hphase]) rfl fun _ => rfl
  | tiny14 =>
    exact runsOnTable_of_read (readsTable_packTiny hphase hfits) (fun _ => rfl) fun _ => ⟨_, rfl, fun _ => rfl⟩
  | smInit =>
    by_cases hlen : s.len.toNat ≤ 16
    · exact runsOnTable_of_next (by simp [State.reads, hphase]) (if_pos hlen) fun _ => if_pos hlen
    · exact runsOnTable_of_next (by simp [State.reads, hphase]) (if_neg hlen) fun _ => if_neg hlen
  | shortAbsorb =>
    exact runsOnTable_of_read (readsTable_shortWords hphase hfits) (fun _ => rfl) fun _ => ⟨_, rfl, fun _ => rfl⟩
  | medRound =>
    exact runsOnTable_of_read (readsTable_absorb rfl (reads_medRound hphase) s.a .inner) (fun _ => rfl)
      fun _ => ⟨_, rfl, fun _ => rfl⟩
  | medTail =>
    exact runsOnTable_of_read (readsTable_absorb (lenMinus_stated (fits_medTail hphase hfits))
      (reads_medTail hphase hfits) s.a .full) (fun _ => rfl) fun _ => ⟨_, rfl, fun _ => rfl⟩
  | longRound =>
    exact runsOnTable_of_read (readsTable_absorb rfl (reads_longRound hphase) s.acc .inner) (fun _ => rfl)
      fun _ => ⟨_, rfl, fun _ => rfl⟩
  | longTail =>
    exact runsOnTable_of_read (readsTable_absorb (lenMinus_stated (fits_longTail hphase hfits))
      (reads_longTail hphase hfits) s.acc .full) (fun _ => rfl) fun _ => ⟨_, rfl, fun _ => rfl⟩

theorem coreTurn_iff : s.coreTurn ↔ s.turns = [] ∨ s.turns.head? = some .core := by
  cases hturns : s.turns with
  | nil => simp [State.coreTurn, State.nextTurn, hturns]
  | cons tn rest => simp [State.coreTurn, State.nextTurn, hturns]

/-- Whose turn it is does not depend on the memory. -/
theorem coreTurn_over (h : s.coreTurn) (m : Memory) : (s.over m).coreTurn :=
  coreTurn_iff.mpr (coreTurn_iff (s := s).mp h)

/-- A core turn runs the operation of `PHASE`, the turn used up (R31). -/
theorem step_of_coreTurn (h : s.coreTurn) : step s = exec s.phase.operation { s with turns := s.turns.tail } := by
  rw [step_eq, h, nextTurn_state, doTurn_core]

end Core

/-- Settles O48: a core turn runs on its row of R57's table, which lies inside the buffer. -/
theorem coreReadsOnlyTheBuffer : Obligations.CoreReadsOnlyTheBuffer := by
  intro s ⟨_, hfits, _⟩ hcore
  have hrun : s.RunsOnTable fun m => step (s.over m) := by
    have hstep (m : Memory) : step (s.over m) =
        exec s.phase.operation ({ s with turns := s.turns.tail }.over m) :=
      step_of_coreTurn (coreTurn_over hcore m)
    have htable := exec_runsOnTable (s := { s with turns := s.turns.tail }) hfits
    rw [funext hstep]
    exact ⟨htable.next, htable.fault, htable.refused⟩
  exact ⟨fun _ => reads_inside hfits, hrun.next, hrun.fault, hrun.refused⟩

end Sys2Proof.Machine
end

section
/-! PROOFS. The decoder and the encoder (spec/30_encoding.md): the row of a command word, the codes of `PHASE`, the
two directions of decode and encode, the class rows against HASH32, and the word placed for the next step. -/

namespace Sys2Proof.Machine

open Sys2Proof

/-! ### The masks of R82 -/

/-- A mask that keeps the bits from `k` on leaves nothing of the numbers below `2 ^ k`, and of no others. -/
theorem and_highBits_eq_zero_iff {w k : Nat} {x mask : BitVec w} (hk : k < w) (hmask : mask = BitVec.allOnes w <<< k) :
    x &&& mask = 0#w ↔ x.toNat < 2 ^ k := by
  rw [BitVec.toNat_lt_iff_getLsbD_eq_false k hk, hmask]
  constructor
  · intro h j
    have hbit := congrArg (fun y => y.getLsbD (k + j)) h
    by_cases hj : k + j < w
    · simpa [hj, BitVec.getLsbD_eq_getElem] using hbit
    · exact BitVec.getLsbD_of_ge x _ (by omega)
  · intro h
    ext i hi
    by_cases hlow : i < k
    · simp [hlow]
    · have hbit := h (i - k)
      rw [Nat.add_sub_cancel' (Nat.not_lt.mp hlow), BitVec.getLsbD_eq_getElem hi] at hbit
      simp [hbit]

/-- A row that compares every bit of the length catches the one length. -/
theorem and_allBits_eq_iff {len : Len} (n : Len) : len &&& 0xFFFFFFFFFFFFFFFF#64 = n ↔ len.toNat = n.toNat := by
  rw [show len &&& 0xFFFFFFFFFFFFFFFF#64 = len from BitVec.and_allOnes, BitVec.toNat_inj]

section CommandRows

variable (ptr : Addr) (len : Len) (seed : Word)

/-- The rows of R82 as ranges of the length (R81). -/
theorem decodeCommand_eq :
    decodeCommand ptr len seed =
      if len.toNat = 0 then .hash32Tiny0 ptr seed
      else if len.toNat ≤ 3 then .hash32Tiny14Len1to3 ptr len seed
      else if len.toNat = 4 then .hash32Tiny14Len4 ptr seed
      else if len.toNat ≤ 15 then .hash32ShortLen5to15 ptr len seed
      else if len.toNat = 16 then .hash32ShortLen16 ptr seed
      else if len.toNat ≤ 127 then .hash32Medium ptr len seed
      else .hash32Long ptr len seed := by
  have h3 : len &&& 0xFFFFFFFFFFFFFFFC#64 = 0#64 ↔ len.toNat ≤ 3 :=
    (and_highBits_eq_zero_iff (k := 2) (by decide) (by decide)).trans Nat.lt_succ_iff
  have h15 : len &&& 0xFFFFFFFFFFFFFFF0#64 = 0#64 ↔ len.toNat ≤ 15 :=
    (and_highBits_eq_zero_iff (k := 4) (by decide) (by decide)).trans Nat.lt_succ_iff
  have h127 : len &&& 0xFFFFFFFFFFFFFF80#64 = 0#64 ↔ len.toNat ≤ 127 :=
    (and_highBits_eq_zero_iff (k := 7) (by decide) (by decide)).trans Nat.lt_succ_iff
  simp only [decodeCommand, and_allBits_eq_iff, h3, h15, h127]
  rfl

/-- The seven rows, each with the lengths it catches. -/
theorem decodeCommand_cases :
    (len = 0 ∧ decodeCommand ptr len seed = .hash32Tiny0 ptr seed) ∨
    ((1 ≤ len.toNat ∧ len.toNat ≤ 3) ∧ decodeCommand ptr len seed = .hash32Tiny14Len1to3 ptr len seed) ∨
    (len = 4 ∧ decodeCommand ptr len seed = .hash32Tiny14Len4 ptr seed) ∨
    ((5 ≤ len.toNat ∧ len.toNat ≤ 15) ∧ decodeCommand ptr len seed = .hash32ShortLen5to15 ptr len seed) ∨
    (len = 16 ∧ decodeCommand ptr len seed = .hash32ShortLen16 ptr seed) ∨
    ((17 ≤ len.toNat ∧ len.toNat ≤ 127) ∧ decodeCommand ptr len seed = .hash32Medium ptr len seed) ∨
    (128 ≤ len.toNat ∧ decodeCommand ptr len seed = .hash32Long ptr len seed) := by
  rw [decodeCommand_eq]
  split_ifs with h0 h3 h4 h15 h16 h127
  · exact .inl ⟨BitVec.eq_of_toNat_eq h0, rfl⟩
  · exact .inr (.inl ⟨by omega, rfl⟩)
  · exact .inr (.inr (.inl ⟨BitVec.eq_of_toNat_eq h4, rfl⟩))
  · exact .inr (.inr (.inr (.inl ⟨by omega, rfl⟩)))
  · exact .inr (.inr (.inr (.inr (.inl ⟨BitVec.eq_of_toNat_eq h16, rfl⟩))))
  · exact .inr (.inr (.inr (.inr (.inr (.inl ⟨by omega, rfl⟩)))))
  · exact .inr (.inr (.inr (.inr (.inr (.inr ⟨by omega, rfl⟩)))))

theorem decode_cmd : decode (.cmd (commandWord ptr len seed)) = .ok (decodeCommand ptr len seed) := by
  simp only [decode, commandWord, commandPtr_append, commandLen_append, commandSeed_append]

theorem decode_cmd_of_eq {ptr : Addr} {len : Len} {seed : Word} {i : Instr} (h : decodeCommand ptr len seed = i) :
    decode (.cmd (commandWord ptr len seed)) = .ok i :=
  h ▸ decode_cmd ptr len seed

theorem encode_decodeCommand : encode (decodeCommand ptr len seed) = .cmd (commandWord ptr len seed) := by
  obtain ⟨rfl, h⟩ | ⟨-, h⟩ | ⟨rfl, h⟩ | ⟨-, h⟩ | ⟨rfl, h⟩ | ⟨-, h⟩ | ⟨-, h⟩ := decodeCommand_cases ptr len seed
  all_goals rw [h, encode]

theorem wellFormed_decodeCommand : (decodeCommand ptr len seed).wellFormed = true := by
  obtain ⟨-, h⟩ | ⟨hlen, h⟩ | ⟨-, h⟩ | ⟨hlen, h⟩ | ⟨-, h⟩ | ⟨hlen, h⟩ | ⟨hlen, h⟩ := decodeCommand_cases ptr len seed
  all_goals simp [Instr.wellFormed, *]

end CommandRows

/-- Settles O3: the command word's length field selects the row by its range. -/
theorem commandRowIsTheLengthRange : Obligations.CommandRowIsTheLengthRange :=
  fun ptr len seed => (decode_cmd ptr len seed).trans (congrArg _ (decodeCommand_eq ptr len seed))

/-! ### The class rows and HASH32 (R82, R101) -/

theorem runRow_lengthClass {cls : LengthClass} (ptr : Addr) (len : Len) (seed : Word) (s : State)
    (h : lengthClass len = cls) : s.runRow cls ptr len seed = exec (.hash32 ptr len seed) s := by
  subst h
  exact if_pos rfl

/-- Every row that catches the length is the row of the length's class (R81), so it runs what HASH32 runs. -/
theorem exec_decodeCommand (ptr : Addr) (len : Len) (seed : Word) (s : State) :
    exec (decodeCommand ptr len seed) s = exec (.hash32 ptr len seed) s := by
  have hclass := lengthClass_cases len
  obtain ⟨rfl, h⟩ | ⟨hlen, h⟩ | ⟨rfl, h⟩ | ⟨hlen, h⟩ | ⟨rfl, h⟩ | ⟨hlen, h⟩ | ⟨hlen, h⟩ :=
    decodeCommand_cases ptr len seed
  · exact h ▸ exec_hash32Tiny0 .. ▸ runRow_lengthClass ptr 0 seed s rfl
  · exact h ▸ runRow_lengthClass ptr len seed s (by grind)
  · exact h ▸ exec_hash32Tiny14Len4 .. ▸ runRow_lengthClass ptr 4 seed s rfl
  · exact h ▸ runRow_lengthClass ptr len seed s (by grind)
  · exact h ▸ exec_hash32ShortLen16 .. ▸ runRow_lengthClass ptr 16 seed s rfl
  · exact h ▸ runRow_lengthClass ptr len seed s (by grind)
  · exact h ▸ runRow_lengthClass ptr len seed s (by grind)

/-- Settles O44: both words hold the same operands, and the row runs what HASH32 runs. -/
theorem commandRowsRefineHash32 : Obligations.CommandRowsRefineHash32 := by
  intro w i j s hi hj
  cases hi
  cases hj
  exact exec_decodeCommand _ _ _ s

/-! ### The codes of `PHASE` (R87, R88) -/

theorem ofCode_eq_some_iff {c : BitVec 4} {p : Phase} : Phase.ofCode c = some p ↔ p.code = c := by
  revert c
  cases p <;> decide

theorem ofCode_eq_none_iff {c : BitVec 4} : Phase.ofCode c = none ↔ 14 ≤ c.toNat := by
  revert c
  decide

theorem decode_phase_ok {c : BitVec 4} {i : Instr} (h : decode (.phase c) = .ok i) :
    ∃ p : Phase, p.code = c ∧ p.operation = i := by
  cases hp : Phase.ofCode c with
  | none => simp [decode, hp] at h
  | some p => exact ⟨p, ofCode_eq_some_iff.mp hp, by simpa [decode, hp] using h⟩

/-- Settles O4: the sixteen codes, fourteen of them a value of `PHASE`. -/
theorem phaseCodesNameTheirOperations : Obligations.PhaseCodesNameTheirOperations := by
  refine ⟨decode_phase .idle, decode_phase .dispatch, decode_phase .tiny0, decode_phase .tiny14, decode_phase .smInit,
    decode_phase .shortAbsorb, decode_phase .medRound, decode_phase .medTail, decode_phase .smFinal,
    decode_phase .longInit, decode_phase .longRound, decode_phase .longTail, decode_phase .longMerge,
    decode_phase .done, decode_phase, fun c hc => ?_, fun c hc => ?_⟩
  · simp only [decode, ofCode_eq_none_iff.mpr hc]
  · obtain ⟨p, hp⟩ := Option.ne_none_iff_exists'.mp fun h => Nat.not_le.mpr hc (ofCode_eq_none_iff.mp h)
    exact ⟨p, ofCode_eq_some_iff.mp hp⟩

/-! ### Decode after encode -/

/-- A write to `CTRL` with bit 0 set, and its reserved bits (R27). -/
theorem decode_ctrl (reserved : BitVec 31) : decode (.ctrl (reserved ++ 1#1)) = .ok (.start reserved) := by
  have hreserved : (reserved ++ 1#1).extractLsb' 1 31 = reserved := BitVec.extractLsb'_append_eq_left
  have hbit : (reserved ++ 1#1).getLsbD 0 = true := BitVec.getLsbD_append
  simp only [decode, hbit, if_true, hreserved]

theorem decode_encode_func {i : Instr} {f : FuncName} {w : BitVec 96} (h : encode i = .func f w) :
    decode (encode i) = .ok i :=
  h ▸ decodeFunc_of_encode h

/-- Settles O1: the fields of a word are the operands, a well-formed length is in its row's range, and the codes of
`PHASE` compute. -/
theorem decodeOfEncodeIsTheOperation : Obligations.DecodeOfEncodeIsTheOperation := by
  intro i hwf
  cases i with
  | hash32Tiny0 ptr seed => exact decode_cmd ptr 0 seed
  | hash32Tiny14Len4 ptr seed => exact decode_cmd ptr 4 seed
  | hash32ShortLen16 ptr seed => exact decode_cmd ptr 16 seed
  | hash32Tiny14Len1to3 ptr len seed | hash32ShortLen5to15 ptr len seed | hash32Medium ptr len seed
  | hash32Long ptr len seed =>
    have hlen := of_decide_eq_true hwf
    exact decode_cmd_of_eq (by grind [decodeCommand_eq])
  | hash32 ptr len seed => exact decode_commandAny ptr len seed
  | start reserved => exact decode_ctrl reserved
  | idle | dispatch | tiny0 | tiny14 | smInit | shortAbsorb | medRound | medTail | smFinal | longInit | longRound
  | longTail | longMerge | done => rfl
  | sxA | sxB | mul16 | avalanche32Inner | avalanche32Full | mix32Inner | mix32Full | short32NoSeed2 | short32Seed2
  | memRead1 | memRead4 | round => exact decode_encode_func rfl

/-! ### Encode after decode -/

/-- A decoder that tests a word before it answers. -/
theorem ite_eq_ok_iff {p : Prop} [Decidable p] {e : DecodeError} {i j : Instr} :
    (if p then .ok i else .error e : Except DecodeError Instr) = .ok j ↔ p ∧ i = j := by
  split_ifs with hp <;> simp [hp]

theorem decode_ctrl_ok {w : BitVec 32} {i : Instr} (h : decode (.ctrl w) = .ok i) :
    w.getLsbD 0 = true ∧ .start (w.extractLsb' 1 31) = i :=
  ite_eq_ok_iff.mp h

/-- The three fields of a command word are all its bits (R80). -/
theorem commandWord_fields (w : BitVec 160) : commandWord (commandPtr w) (commandLen w) (commandSeed w) = w := by
  have hhigh : w.extractLsb' 128 32 ++ w.extractLsb' 64 64 = w.extractLsb' 64 96 :=
    BitVec.extractLsb'_append_extractLsb'_eq_extractLsb' rfl
  rw [commandWord, commandPtr, commandLen, commandSeed, hhigh]
  exact BitVec.extractLsb'_append_extractLsb'

/-- Bit 0 and the reserved bits are all bits of a START (R27). -/
theorem ctrlWord_fields {w : BitVec 32} (h : w.getLsbD 0 = true) : w.extractLsb' 1 31 ++ 1#1 = w := by
  have hbit : w.extractLsb' 0 1 = 1#1 := by
    ext i hi
    obtain rfl : i = 0 := by omega
    simpa using h
  rw [← hbit]
  exact BitVec.extractLsb'_append_extractLsb'

/-- A function word with no stray selector bit is made of its three fields (log 18). -/
theorem exists_funcWord_of_decodeFunc {f : FuncName} {w : BitVec 96} {i : Instr} (h : decodeFunc f w = .ok i) :
    ∃ sel op1 op2, w = funcWord sel op1 op2 := by
  have hsel : w.extractLsb' 0 32 = 0 ∨ w.extractLsb' 0 32 = 1 := by
    by_contra hstray
    have herror : decodeFunc f w = .error .strayBits := if_pos (not_or.mp hstray)
    cases herror.symm.trans h
  have hfields : w.extractLsb' 64 32 ++ w.extractLsb' 32 32 ++ w.extractLsb' 0 32 = w := by
    rw [BitVec.extractLsb'_append_extractLsb'_eq_extractLsb' (by rfl)]
    exact BitVec.extractLsb'_append_extractLsb'
  rcases hsel with hsel | hsel
  · exact ⟨false, _, _, by rw [← hfields, hsel]; rfl⟩
  · exact ⟨true, _, _, by rw [← hfields, hsel]; rfl⟩

section FunctionFields

variable (sel : Bool) (op1 op2 : Word)

@[simp] theorem funcWord_op : (funcWord sel op1 op2).extractLsb' 32 64 = op2 ++ op1 :=
  BitVec.extractLsb'_append_eq_left

theorem funcWord_getLsbD_zero : (funcWord sel op1 op2).getLsbD 0 = sel :=
  (BitVec.getLsbD_eq_getElem (by decide)).trans (funcWord_bit sel op1 op2)

theorem funcWord_not_stray :
    ¬((funcWord sel op1 op2).extractLsb' 0 32 ≠ 0 ∧ (funcWord sel op1 op2).extractLsb' 0 32 ≠ 1) := by
  rw [funcWord_selector]
  cases sel <;> decide

end FunctionFields

/-- The operation of a function word holds its selector and both operand words. -/
theorem encode_of_decodeFunc {f : FuncName} {w : BitVec 96} {i : Instr} (h : decodeFunc f w = .ok i) :
    encode i = .func f w ∧ i.wellFormed = true := by
  obtain ⟨sel, op1, op2, rfl⟩ := exists_funcWord_of_decodeFunc h
  simp only [decodeFunc, if_neg (funcWord_not_stray sel op1 op2), funcWord_getLsbD_zero, funcWord_op1, funcWord_op2,
    funcWord_op] at h
  cases f with
  | sxA | sxB =>
    obtain ⟨⟨rfl, rfl⟩, rfl⟩ := ite_eq_ok_iff.mp h
    exact ⟨rfl, rfl⟩
  | mul16 | memRead1 | memRead4 =>
    obtain ⟨rfl, rfl⟩ := ite_eq_ok_iff.mp h
    exact ⟨rfl, rfl⟩
  | avalanche32 =>
    obtain ⟨rfl, rfl⟩ := ite_eq_ok_iff.mp h
    cases sel <;> exact ⟨rfl, rfl⟩
  | mix32 | short32 | round =>
    cases h
    cases sel <;> exact ⟨rfl, rfl⟩

/-- Every word of every format that decodes is the word of the operation it stands for. -/
theorem encode_of_decode {w : RawWord} {i : Instr} (h : decode w = .ok i) : encode i = w ∧ i.wellFormed = true := by
  cases w with
  | cmd w =>
    cases h
    exact ⟨by rw [encode_decodeCommand, commandWord_fields], wellFormed_decodeCommand ..⟩
  | cmdAny w =>
    cases h
    exact ⟨congrArg RawWord.cmdAny (commandWord_fields w), rfl⟩
  | ctrl w =>
    obtain ⟨hbit, rfl⟩ := decode_ctrl_ok h
    exact ⟨congrArg RawWord.ctrl (ctrlWord_fields hbit), rfl⟩
  | phase c =>
    obtain ⟨p, rfl, rfl⟩ := decode_phase_ok h
    cases p <;> exact ⟨rfl, rfl⟩
  | func f w => exact encode_of_decodeFunc h

/-- Settles O2: format by format, the operation keeps every field of the word. -/
theorem encodeOfDecodeIsTheWord : Obligations.EncodeOfDecodeIsTheWord := fun _ _ => encode_of_decode

/-- Settles O5: nine closed words, decoded. -/
theorem writtenOutWordsDecode : Obligations.WrittenOutWordsDecode := by
  unfold Obligations.WrittenOutWordsDecode
  decide

/-! ### The word placed for the next step (log 20) -/

theorem encode_format (i : Instr) : (encode i).format = i.format := by
  cases i <;> rfl

theorem format_of_decode {w : RawWord} {i : Instr} (h : decode w = .ok i) : i.format = w.format := by
  rw [← encode_format, (encode_of_decode h).1]

theorem decode_of_decodeTableWord {nbits w : Nat} {i : Instr} (h : decodeTableWord nbits w = some i) :
    decode (tableWord nbits w) = .ok i := by
  cases hdecode : decode (tableWord nbits w) with
  | ok j => simpa [decodeTableWord, hdecode] using h
  | error e => simp [decodeTableWord, hdecode] at h

theorem tableWord_cases (nbits w : Nat) :
    (∃ c, tableWord nbits w = .phase c) ∨ (∃ v, tableWord nbits w = .ctrl v) ∨ ∃ v, tableWord nbits w = .cmd v := by
  unfold tableWord
  split_ifs <;> simp

theorem step_present_phase (s : State) (p : Phase) :
    step (s.present (.phase p.code)) = exec p.operation { s with phase := p } := by
  have hplaced : s.present (.phase p.code) = { s with phase := p, turns := .core :: s.turns } := by
    simp only [State.present, ofCode_eq_some_iff.mpr rfl]
  rw [hplaced, step_of_turns rfl, doTurn_core]

theorem step_present_ctrl (s : State) {v : BitVec 32} {i : Instr} (h : decode (.ctrl v) = .ok i) :
    step (s.present (.ctrl v)) = exec i { s with ptrWritten := true, lenWritten := true, seedWritten := true } := by
  obtain ⟨hbit, -⟩ := decode_ctrl_ok h
  have hstart : isStart .ctrl (v.setWidth 64) = true := by simpa [isStart] using hbit
  have hturn (t : State) : doTurn (.write .ctrl (v.setWidth 64)) t = runWord (.ctrl v) t := by simp [doTurn, hstart]
  rw [State.present, step_of_turns rfl, hturn, runWord_ok _ h]

theorem step_present_cmd (s : State) {v : BitVec 160} {i : Instr} (h : decode (.cmd v) = .ok i) :
    step (s.present (.cmd v)) = exec i s :=
  (step_of_turns (s := s.present (.cmd v)) rfl).trans (runWord_ok s h)

/-- Settles O9: a table word is a code, a write to `CTRL` or a command word, and each is run as it is placed. -/
theorem placedWordIsRunNext : Obligations.PlacedWordIsRunNext := by
  intro s nbits w i h
  have hdecode := decode_of_decodeTableWord h
  unfold State.withFetchWord
  obtain ⟨c, hw⟩ | ⟨v, hw⟩ | ⟨v, hw⟩ := tableWord_cases nbits w
  all_goals
    rw [hw] at hdecode ⊢
    have hformat := format_of_decode hdecode
  · obtain ⟨p, rfl, rfl⟩ := decode_phase_ok hdecode
    exact ⟨_, step_present_phase s p, rfl, fun hne => absurd hformat hne, fun _ => rfl⟩
  · exact ⟨_, step_present_ctrl s hdecode, rfl, fun _ => rfl, fun hphase => nomatch hformat.symm.trans hphase⟩
  · exact ⟨s, step_present_cmd s hdecode, rfl, fun _ => rfl, fun hphase => nomatch hformat.symm.trans hphase⟩

end Sys2Proof.Machine
end

section
/-! PROOFS. Control of the core (spec/40_dispatcher.md): where START, a command and each core turn take `PHASE`, `K` and
`NB`, and from it what every turn keeps of the invariant. -/

namespace Sys2Proof.Machine

open Sys2Proof

/-! ### START (R102) -/

theorem exec_start_of_accepted {s : State} (reserved : BitVec 31) (hidle : s.busy = false)
    (hwritten : s.operandsWritten = true) (hfits : s.bufferFits = true) :
    exec (.start reserved) s = .next s.accept := by
  change s.startCommand = _
  rw [State.startCommand, startRefusal_none.mpr ⟨hidle, hwritten, hfits⟩]

theorem bufferFits_iff {s : State} : s.bufferFits = true ↔ s.ptr.toNat + s.len.toNat ≤ 2 ^ 64 :=
  decide_eq_true_iff

theorem status_of_busy {s : State} (h : s.busy = true) : s.status = 1 := by
  have hdone : s.isDone = false := by
    rw [← Bool.not_eq_true, isDone_iff]
    exact (busy_iff.mp h).2
  rw [State.status, h, hdone]
  decide

/-- Settles O21: none of the three refusals applies, so the START is accepted. -/
theorem startIssuesACommand : Obligations.StartIssuesACommand := by
  intro s reserved hphase hlen hseed hptr hfits
  exact ⟨s.accept, exec_start_of_accepted reserved (busy_eq_false_iff.mpr hphase)
    (operandsWritten_iff.mpr ⟨hlen, hseed, hptr⟩) (bufferFits_iff.mpr hfits), rfl, status_of_busy rfl⟩

/-! ### DISPATCH (R100) -/

theorem exec_dispatch (s : State) :
    exec .dispatch s = .next { s with phase := dispatchTarget (lengthClass s.len) } := rfl

theorem dispatchTarget_lengthClass (len : Len) : dispatchTarget (lengthClass len) =
    if len.toNat = 0 then .tiny0
    else if len.toNat ≤ 4 then .tiny14
    else if len.toNat ≤ 16 then .smInit
    else if len.toNat ≤ 127 then .smInit
    else .longInit := by
  unfold lengthClass
  split_ifs <;> rfl

/-- Settles O24: the target of the length's class, as R100's chain of tests. -/
theorem dispatchSelectsByLength : Obligations.DispatchSelectsByLength := by
  intro s
  rw [exec_dispatch, dispatchTarget_lengthClass]

/-! ### What a core turn writes of `PHASE`, `K` and `NB` (R105) -/

/-- `K` after the core's operation (R120, R131, R140, R143). -/
def State.kAfter (s : State) : Len :=
  match s.phase with
  | .smInit | .longInit => 0
  | .medRound | .longRound => s.k + 1
  | .idle | .dispatch | .tiny0 | .tiny14 | .shortAbsorb | .medTail | .smFinal | .longTail | .longMerge | .done => s.k

/-- `NB` after the core's operation (R120, R141). -/
def State.nbAfter (s : State) : Len :=
  match s.phase with
  | .smInit => if s.len.toNat ≤ 16 then s.nb else mediumBlocks s.len
  | .longInit => longBlocks s.len
  | .idle | .dispatch | .tiny0 | .tiny14 | .shortAbsorb | .medRound | .medTail | .smFinal | .longRound | .longTail
  | .longMerge | .done => s.nb

/-- `PHASE` goes where R105 sends it, and `K` and `NB` with it until the command ends (R104, log 16). -/
structure State.controlStep (s t : State) : Prop where
  phase : t.phase = phaseAfter s
  k : t.phase ≠ .done → t.k = s.kAfter
  nb : t.phase ≠ .done → t.nb = s.nbAfter

theorem exec_smInit (s : State) :
    exec .smInit s = .next (if s.len.toNat ≤ 16
      then { s with a := seedLanes s.consts.prime s.seed, k := 0, phase := .shortAbsorb }
      else { s with
        a := seedLanes s.consts.prime s.seed, k := 0, nb := mediumBlocks s.len, phase := .medRound }) := by
  change execSmInit s = _
  rw [execSmInit]
  split_ifs <;> rfl

theorem longBlocks_eq_zero_iff {len : Len} (hlen : 1 ≤ len.toNat) : longBlocks len = 0 ↔ len.toNat ≤ 128 := by
  rw [← BitVec.toNat_inj, longBlocks_toNat hlen]
  change (len.toNat - 1) / 128 = 0 ↔ _
  omega

/-- LONG_INIT where the spec states `LEN - 1` (R140, R141). -/
theorem exec_longInit_of_one_le {s : State} (hlen : 1 ≤ s.len.toNat) :
    exec .longInit s = .next { s with
      acc := seedLanes s.consts.accInit s.seed
      nb := longBlocks s.len
      k := 0
      phase := if s.len.toNat ≤ 128 then .longTail else .longRound } := by
  have hminus : s.lenMinusOne = s.len - 1 := if_neg fun h => by simp [h] at hlen
  change execLongInit s = _
  rw [execLongInit, hminus, lenMinus_stated hlen, State.drew_stated]
  simp only [← longBlocks_eq_zero_iff hlen]
  rfl

theorem lastBlock_iff {s : State} : s.lastBlock = true ↔ s.k.toNat + 1 = s.nb.toNat :=
  decide_eq_true_iff

/-- MED_ROUND, with the test of R131 on numbers (log 23). -/
theorem exec_medRound (s : State) :
    exec .medRound s = afterRead (s.buffer.absorb s.consts s.a (some (16 * s.k.toNat)) .inner) fun a =>
      .next { s with
        a := a, k := s.k + 1, phase := if s.k.toNat + 1 = s.nb.toNat then .medTail else .medRound } := by
  simp only [← lastBlock_iff]
  rfl

/-- LONG_ROUND, with the test of R143 on numbers (log 23). -/
theorem exec_longRound (s : State) :
    exec .longRound s = afterRead (s.buffer.absorb s.consts s.acc (some (128 * s.k.toNat)) .inner) fun acc =>
      .next { s with
        acc := acc, k := s.k + 1, phase := if s.k.toNat + 1 = s.nb.toNat then .longTail else .longRound } := by
  simp only [← lastBlock_iff]
  rfl

/-- An operation that ends the command leaves `PHASE` in `DONE`, where `K` and `NB` hold nothing promised. -/
theorem controlStep_of_done {s t : State} (hdone : t.phase = .done) (hafter : phaseAfter s = .done) :
    s.controlStep t :=
  ⟨hdone.trans hafter.symm, fun h => absurd hdone h, fun h => absurd hdone h⟩

/-- Every operation of `PHASE`, once: its row of R105. Where `LEN` is 0 the spec does not state LONG_INIT's (log 31). -/
theorem exec_operation_control {s t : State} (hlen : s.phase = .longInit → 1 ≤ s.len.toNat)
    (h : exec s.phase.operation s = .next t) : s.controlStep t := by
  cases hphase : s.phase with
  | idle | done =>
    rw [hphase] at h
    cases h
    constructor <;> simp [phaseAfter, State.kAfter, State.nbAfter, hphase]
  | dispatch =>
    rw [hphase] at h
    cases h
    constructor
    · simp only [State.setPhase_phase, phaseAfter, hphase, dispatchTarget_lengthClass]
      grind
    · simp [State.kAfter, hphase]
    · simp [State.nbAfter, hphase]
  | tiny0 | smFinal | longMerge =>
    rw [hphase] at h
    cases h
    exact controlStep_of_done rfl (by simp only [phaseAfter, hphase])
  | tiny14 =>
    rw [hphase] at h
    obtain ⟨_, -, ht⟩ := afterRead_next h
    cases ht
    exact controlStep_of_done rfl (by simp only [phaseAfter, hphase])
  | smInit =>
    rw [hphase, Phase.operation, exec_smInit] at h
    cases h
    by_cases h16 : s.len.toNat ≤ 16
    · constructor <;> simp [phaseAfter, State.kAfter, State.nbAfter, hphase, h16]
    · constructor <;> simp [phaseAfter, State.kAfter, State.nbAfter, hphase, h16]
  | shortAbsorb | medTail | longTail =>
    rw [hphase] at h
    obtain ⟨_, -, ht⟩ := afterRead_next h
    cases ht
    constructor <;> simp [phaseAfter, State.kAfter, State.nbAfter, hphase]
  | medRound =>
    rw [hphase, Phase.operation, exec_medRound] at h
    obtain ⟨_, -, ht⟩ := afterRead_next h
    cases ht
    constructor <;> simp [phaseAfter, State.kAfter, State.nbAfter, hphase]
  | longInit =>
    rw [hphase, Phase.operation, exec_longInit_of_one_le (hlen hphase)] at h
    cases h
    constructor <;> simp [phaseAfter, State.kAfter, State.nbAfter, hphase]
  | longRound =>
    rw [hphase, Phase.operation, exec_longRound] at h
    obtain ⟨_, -, ht⟩ := afterRead_next h
    cases ht
    constructor <;> simp [phaseAfter, State.kAfter, State.nbAfter, hphase]

/-! ### `PHASE` at a core turn (R105) -/

theorem fits_longInit {s : State} (hphase : s.phase = .longInit) (hfits : s.phaseFits = true) :
    128 ≤ s.len.toNat := by
  simp only [State.phaseFits, hphase, decide_eq_true_eq] at hfits
  exact len_of_long hfits

/-- Where `PHASE` fits, the core's operation is never LONG_INIT at `LEN = 0`. -/
theorem exec_operation_controlStep {s t : State} (hfits : s.phaseFits = true)
    (h : exec s.phase.operation s = .next t) : s.controlStep t :=
  exec_operation_control (fun hphase => by have := fits_longInit hphase hfits; omega) h

/-- Settles O53: the phase of the one `controlStep`. -/
theorem phaseFollowsTheTransitionTable : Obligations.PhaseFollowsTheTransitionTable := by
  intro s t hfits hcore h
  rw [step_of_coreTurn hcore] at h
  exact (exec_operation_controlStep (s := { s with turns := s.turns.tail }) hfits h).phase

/-! ### `PHASE` fits the length after a core turn -/

theorem toNat_add_one_of_lt {k nb : Len} (h : k.toNat < nb.toNat) : (k + 1).toNat = k.toNat + 1 := by
  bv_omega

section RowsOfTheTable

variable {s t : State} (h : s.controlStep t) (hlen : t.len = s.len) (hfits : s.phaseFits = true)
  (hdone : t.phase ≠ .done)
include h hlen hfits hdone

/-- SM_INIT sends each of its two classes to its own operation, the medium one with a block to come (R120). -/
theorem phaseFits_of_smInit (hp : s.phase = .smInit) : t.phaseFits = true := by
  have hphase := h.phase
  have hk := h.k hdone
  have hnb := h.nb hdone
  simp only [State.kAfter, State.nbAfter, hp] at hk hnb
  simp only [State.phaseFits, hp, Bool.or_eq_true, decide_eq_true_eq] at hfits
  by_cases h16 : s.len.toNat ≤ 16
  · simp only [phaseAfter, hp, if_pos h16] at hphase
    have hcls : lengthClass s.len = .short := hfits.resolve_right fun hm => by
      have := len_of_medium hm
      omega
    simp [State.phaseFits, hphase, hlen, hcls]
  · simp only [phaseAfter, hp, if_neg h16] at hphase
    simp only [if_neg h16] at hnb
    have hcls : lengthClass s.len = .medium := hfits.resolve_left fun hs => by
      have := len_of_short hs
      omega
    have hblocks : 0 < (mediumBlocks s.len).toNat := by
      rw [mediumBlocks_toNat (by omega)]
      omega
    simp [State.phaseFits, hphase, hlen, hcls, hk, hnb, hblocks]

/-- LONG_INIT goes on to the rounds where there is a full block (R141). -/
theorem phaseFits_of_longInit (hp : s.phase = .longInit) : t.phaseFits = true := by
  have hphase := h.phase
  have hk := h.k hdone
  have hnb := h.nb hdone
  have h128 := fits_longInit hp hfits
  simp only [State.kAfter, State.nbAfter, hp] at hk hnb
  simp only [State.phaseFits, hp, decide_eq_true_eq] at hfits
  by_cases hle : s.len.toNat ≤ 128
  · simp only [phaseAfter, hp, if_pos hle] at hphase
    have hblocks : longBlocks s.len = 0 := (longBlocks_eq_zero_iff (by omega)).mpr hle
    simp [State.phaseFits, hphase, hlen, hfits, hk, hnb, hblocks]
  · simp only [phaseAfter, hp, if_neg hle] at hphase
    have hblocks : 0 < (longBlocks s.len).toNat := by
      rw [longBlocks_toNat (by omega)]
      omega
    simp [State.phaseFits, hphase, hlen, hfits, hk, hnb, hblocks]

/-- A round counts `K` up to `NB` and goes on to the tail there (R131, R143). -/
theorem phaseFits_of_round (hp : s.phase = .medRound ∨ s.phase = .longRound) : t.phaseFits = true := by
  have hphase := h.phase
  have hk := h.k hdone
  have hnb := h.nb hdone
  obtain hp | hp := hp
  all_goals
    simp only [State.kAfter, State.nbAfter, hp] at hk hnb
    simp only [State.phaseFits, hp, Bool.and_eq_true, decide_eq_true_eq] at hfits
    obtain ⟨⟨hcls, hblocks⟩, hlt⟩ := hfits
    have hsucc := toNat_add_one_of_lt hlt
    by_cases hlast : s.k.toNat + 1 = s.nb.toNat
    · simp only [phaseAfter, hp, if_pos hlast] at hphase
      have hend : t.k = s.nb := hk.trans (BitVec.eq_of_toNat_eq (hsucc.trans hlast))
      simp [State.phaseFits, hphase, hlen, hcls, hnb, hend, ← hblocks]
    · simp only [phaseAfter, hp, if_neg hlast] at hphase
      have hmore : t.k.toNat < s.nb.toNat := by
        rw [hk]
        omega
      simp [State.phaseFits, hphase, hlen, hcls, hnb, hmore, ← hblocks]

end RowsOfTheTable

/-- R105 keeps `PHASE`, `K` and `NB` in step with the length: from row to row of the table. -/
theorem State.controlStep.phaseFits {s t : State} (h : s.controlStep t) (hlen : t.len = s.len)
    (hfits : s.phaseFits = true) : t.phaseFits = true := by
  by_cases hdone : t.phase = .done
  · simp only [State.phaseFits, hdone]
  have hphase := h.phase
  cases hp : s.phase with
  | idle | done | tiny0 | tiny14 | smFinal | longMerge =>
    simp only [phaseAfter, hp] at hphase
    simp only [State.phaseFits, hphase]
  | dispatch =>
    simp only [phaseAfter, hp] at hphase
    simp only [State.phaseFits, hphase, hlen]
    have := lengthClass_cases s.len
    grind
  | smInit => exact phaseFits_of_smInit h hlen hfits hdone hp
  | longInit => exact phaseFits_of_longInit h hlen hfits hdone hp
  | medRound => exact phaseFits_of_round h hlen hfits hdone (.inl hp)
  | longRound => exact phaseFits_of_round h hlen hfits hdone (.inr hp)
  | shortAbsorb =>
    simp only [phaseAfter, hp] at hphase
    simp only [State.phaseFits, hp, decide_eq_true_eq] at hfits
    simp [State.phaseFits, hphase, hlen, hfits]
  | medTail | longTail =>
    simp only [phaseAfter, hp] at hphase
    simp only [State.phaseFits, hp, Bool.and_eq_true, decide_eq_true_eq] at hfits
    obtain ⟨⟨hcls, -⟩, -⟩ := hfits
    simp [State.phaseFits, hphase, hlen, hcls]

/-! ### What every turn keeps of the invariant -/

/-- A core that is not busy is consistent over any memory in canonical form. -/
theorem consistent_of_not_busy {s : State} (hmem : s.mem.wf) (hbusy : s.busy = false) : s.consistent := by
  refine ⟨hmem, ?_, fun h => by simp [hbusy] at h⟩
  obtain hp | hp := busy_eq_false_iff.mp hbusy
  · simp only [State.phaseFits, hp]
  · simp only [State.phaseFits, hp]

/-- `t` is `s` but for `ACC`, the memory, and the model's own answer, count of free values and turns. -/
def State.sameControl (s t : State) : Prop :=
  t = { s with acc := t.acc, mem := t.mem, result := t.result, draws := t.draws, turns := t.turns }

/-- None of the fields that may differ enters the invariant but the memory. -/
theorem State.sameControl.consistent {s t : State} (h : s.sameControl t) (hmem : t.mem.wf) (hs : s.consistent) :
    t.consistent := by
  obtain ⟨-, hfits, hbusy⟩ := hs
  rw [h]
  exact ⟨hmem, hfits, hbusy⟩

theorem State.sameControl.phase {s t : State} (h : s.sameControl t) : t.phase = s.phase := by
  rw [h]

/-- A function of the port touches no register but `ACC` (R142, log 17). -/
theorem exec_func_next {i : Instr} {s t : State} (hi : i.format = .func) (h : exec i s = .next t) :
    s.sameControl t := by
  cases i with
  | sxA | sxB | mul16 | avalanche32Inner | avalanche32Full | mix32Inner | mix32Full | short32NoSeed2 | short32Seed2 =>
    cases h
    rfl
  | memRead1 | memRead4 | round =>
    obtain ⟨_, -, ht⟩ := afterRead_next h
    cases ht
    rfl
  | _ => cases hi

theorem sameControl_of_hostRead (s : State) (r : HostReg) : s.sameControl (s.hostRead r) := by
  rw [hostRead_eq]
  rfl

theorem sameControl_of_apply {s t : State} {i : Instr} {f : FuncName} {w : BitVec 96} (hi : decodeFunc f w = .ok i)
    (h : exec i s = .next t) : s.sameControl t :=
  exec_func_next (format_of_decode (w := .func f w) hi) h

theorem sameControl_of_platformStore {s t : State} {addr : Addr} {b : Byte} (h : s.platformStore addr b = .next t) :
    s.sameControl t := by
  obtain ⟨-, rfl⟩ := platformStore_next h
  rfl

theorem sameControl_of_platformRelease {s t : State} {addr : Addr} (h : s.platformRelease addr = .next t) :
    s.sameControl t := by
  obtain ⟨-, rfl⟩ := platformRelease_next h
  rfl

theorem hostWrite_phase {s t : State} {r : HostReg} {v : BitVec 64} (h : s.hostWrite r v = .next t) :
    t.phase = s.phase := by
  obtain rfl | ⟨-, rfl | rfl | rfl⟩ := hostWrite_next h
  · rfl
  · exact s.writePtr_phase v
  · exact s.writeLen_phase v
  · exact s.writeSeed_phase _

/-- A command that completes ends in `DONE` (R104). -/
theorem exec_hash32_phase {s t : State} {ptr : Addr} {len : Len} {seed : Word}
    (h : exec (.hash32 ptr len seed) s = .next t) : t.phase = .done := by
  obtain ⟨-, -, d, -, rfl⟩ := runPath_next (cls := lengthClass len) h
  rfl

theorem consistent_of_command {s t : State} {ptr : Addr} {len : Len} {seed : Word} (hs : s.consistent)
    (h : exec (.hash32 ptr len seed) s = .next t) : t.consistent :=
  consistent_of_not_busy (exec_mem h ▸ hs.1) (busy_eq_false_iff.mpr (.inr (exec_hash32_phase h)))

/-- An accepted START makes the core busy over operands that it has just checked (R51, R202). -/
theorem consistent_of_start {s t : State} (hs : s.consistent) (h : s.startCommand = .next t) : t.consistent := by
  obtain ⟨-, hwritten, hfits, rfl⟩ := startCommand_next h
  exact ⟨hs.1, rfl, fun _ => ⟨hwritten, hfits⟩⟩

theorem consistent_of_hostWrite {s t : State} {r : HostReg} {v : BitVec 64} (hs : s.consistent)
    (h : s.hostWrite r v = .next t) : t.consistent := by
  obtain rfl | ⟨hidle, -⟩ := hostWrite_next h
  · exact hs
  · refine consistent_of_not_busy (hostWrite_mem h ▸ hs.1) ?_
    rwa [State.busy, hostWrite_phase h]

/-- In `IDLE` and `DONE` the core's turn changes nothing (log 10). -/
theorem exec_operation_of_not_busy {s : State} (h : s.busy = false) : exec s.phase.operation s = .next s := by
  obtain hp | hp := busy_eq_false_iff.mp h
  · rw [hp]
    rfl
  · rw [hp]
    rfl

/-- While busy the core works on its own registers, and R105 keeps `PHASE` in step with the length. -/
theorem consistent_of_core {s t : State} (hs : s.consistent) (h : exec s.phase.operation s = .next t) :
    t.consistent := by
  obtain ⟨hmem, hfits, hbuffer⟩ := hs
  cases hbusy : s.busy with
  | false =>
    rw [exec_operation_of_not_busy hbusy] at h
    cases h
    exact ⟨hmem, hfits, hbuffer⟩
  | true =>
    have hworks := (exec_next_of_busy h hbusy).1
    refine ⟨exec_mem h ▸ hmem, (exec_operation_controlStep hfits h).phaseFits (by rw [hworks]) hfits, fun _ => ?_⟩
    rw [hworks]
    exact hbuffer hbusy

theorem doTurn_consistent {tn : Turn} {s t : State} (hs : s.consistent) (h : doTurn tn s = .next t) :
    t.consistent := by
  rcases doTurn_next h with ⟨-, hop⟩ | ⟨w, -, hop⟩ | ⟨w, -, hop⟩ | ⟨v, -, -, hstart⟩ | ⟨r, v, -, -, hwrite⟩ |
    ⟨r, -, rfl⟩ | ⟨f, w, i, -, -, hi, hop⟩ | ⟨addr, b, -, hstore⟩ | ⟨addr, -, hrelease⟩ | ⟨-, rfl⟩
  · exact consistent_of_core hs hop
  · rw [exec_decodeCommand] at hop
    exact consistent_of_command hs hop
  · exact consistent_of_command hs hop
  · exact consistent_of_start hs hstart
  · exact consistent_of_hostWrite hs hwrite
  · refine (sameControl_of_hostRead s r).consistent ?_ hs
    rw [hostRead_eq]
    exact hs.1
  · exact (sameControl_of_apply hi hop).consistent (exec_mem hop ▸ hs.1) hs
  · refine (sameControl_of_platformStore hstore).consistent ?_ hs
    rw [(platformStore_next hstore).2]
    exact Memory.wf_store _ b hs.1 addr.isLt
  · refine (sameControl_of_platformRelease hrelease).consistent ?_ hs
    rw [(platformRelease_next hrelease).2]
    exact Memory.wf_release _ hs.1
  · exact consistent_of_not_busy hs.1 rfl

/-- Settles O47: turn by turn, the core's through R105's table. -/
theorem stepKeepsConsistency : Obligations.StepKeepsConsistency := by
  intro s t hs h
  rw [step_eq, nextTurn_state] at h
  exact doTurn_consistent (s := { s with turns := s.turns.tail }) hs h

/-! ### `IDLE` and `DONE` (R103, R104) -/

theorem phaseAfter_ne_idle {s : State} (h : s.phase ≠ .idle) : phaseAfter s ≠ .idle := by
  cases hp : s.phase with
  | idle => exact absurd hp h
  | dispatch | smInit | medRound | longInit | longRound =>
    simp only [phaseAfter, hp]
    split_ifs <;> simp
  | tiny0 | tiny14 | shortAbsorb | medTail | smFinal | longTail | longMerge | done => simp [phaseAfter, hp]

/-- No operation of the core enters `IDLE` (R105), LONG_INIT at `LEN = 0` included (log 31). -/
theorem exec_operation_phase_ne_idle {s t : State} (h : exec s.phase.operation s = .next t) (hidle : s.phase ≠ .idle) :
    t.phase ≠ .idle := by
  by_cases hzero : s.phase = .longInit ∧ s.len.toNat = 0
  · obtain ⟨hp, hlen⟩ := hzero
    rw [hp, Phase.operation, exec_longInit_of_len_zero hlen] at h
    cases h
    split_ifs <;> simp
  · have hcontrol := exec_operation_control (fun hp => Nat.one_le_iff_ne_zero.mpr fun hlen => hzero ⟨hp, hlen⟩) h
    rw [hcontrol.phase]
    exact phaseAfter_ne_idle hidle

/-- The turns that issue a command: a START, and the two forms of a command word. -/
def Turn.issues (tn : Turn) : Prop :=
  (∃ v : BitVec 64, v.getLsbD 0 = true ∧ tn = .write .ctrl v) ∨ (∃ w, tn = .command w) ∨ (∃ w, tn = .commandAny w)

/-- What a turn can do to `PHASE`: the core's operation, a command issued, reset, or nothing. -/
theorem doTurn_phase {tn : Turn} {s t : State} (h : doTurn tn s = .next t) :
    (tn = .core ∧ exec s.phase.operation s = .next t) ∨ (tn.issues ∧ t.phase ≠ .idle) ∨
      (tn = .reset ∧ t.phase = .idle) ∨ t.phase = s.phase := by
  rcases doTurn_next h with hcore | ⟨w, rfl, hop⟩ | ⟨w, rfl, hop⟩ | ⟨v, rfl, hbit, hstart⟩ | ⟨r, v, -, -, hwrite⟩ |
    ⟨r, -, rfl⟩ | ⟨f, w, i, -, -, hi, hop⟩ | ⟨addr, b, -, hstore⟩ | ⟨addr, -, hrelease⟩ | ⟨rfl, rfl⟩
  · exact .inl hcore
  · rw [exec_decodeCommand] at hop
    exact .inr (.inl ⟨.inr (.inl ⟨w, rfl⟩), by simp [exec_hash32_phase hop]⟩)
  · exact .inr (.inl ⟨.inr (.inr ⟨w, rfl⟩), by simp [exec_hash32_phase hop]⟩)
  · obtain ⟨-, -, -, rfl⟩ := startCommand_next hstart
    exact .inr (.inl ⟨.inl ⟨v, hbit, rfl⟩, by simp⟩)
  · exact .inr (.inr (.inr (hostWrite_phase hwrite)))
  · exact .inr (.inr (.inr (sameControl_of_hostRead s r).phase))
  · exact .inr (.inr (.inr (sameControl_of_apply hi hop).phase))
  · exact .inr (.inr (.inr (sameControl_of_platformStore hstore).phase))
  · exact .inr (.inr (.inr (sameControl_of_platformRelease hrelease).phase))
  · exact .inr (.inr (.inl ⟨rfl, rfl⟩))

theorem step_phase {s t : State} (h : step s = .next t) :
    (s.nextTurn.1 = .core ∧ exec s.phase.operation { s with turns := s.turns.tail } = .next t) ∨
      (s.nextTurn.1.issues ∧ t.phase ≠ .idle) ∨ (s.nextTurn.1 = .reset ∧ t.phase = .idle) ∨ t.phase = s.phase := by
  rw [step_eq, nextTurn_state] at h
  exact doTurn_phase h

/-- Settles O23: the core's operation there is none, and of the other turns only a reset enters `IDLE` and only a
command issued leaves it. -/
theorem idleAndDoneHaveNoStep : Obligations.IdleAndDoneHaveNoStep := by
  refine ⟨rfl, fun s => ⟨rfl, rfl⟩, fun s t h hcore hphase => ?_, fun s t h hidle => ?_, fun s t h hidle hleft => ?_⟩
  · rw [step_of_coreTurn hcore] at h
    have hstay := exec_operation_of_not_busy (s := { s with turns := s.turns.tail }) (busy_eq_false_iff.mpr hphase)
    exact Host.Outcome.next.inj (h.symm.trans hstay)
  · obtain ⟨-, hop⟩ | ⟨-, hne⟩ | ⟨hreset, -⟩ | hsame := step_phase h
    · by_contra hne
      exact exec_operation_phase_ne_idle (s := { s with turns := s.turns.tail }) hop (not_or.mp hne).1 hidle
    · exact absurd hidle hne
    · exact .inr hreset
    · exact .inl (hsame.symm.trans hidle)
  · obtain ⟨-, hop⟩ | ⟨hissues, -⟩ | ⟨-, hreset⟩ | hsame := step_phase h
    · have hstay := exec_operation_of_not_busy (s := { s with turns := s.turns.tail })
        (busy_eq_false_iff.mpr (.inl hidle))
      cases hop.symm.trans hstay
      exact absurd hidle hleft
    · exact hissues
    · exact absurd hreset hleft
    · exact absurd (hsame.trans hidle) hleft

end Sys2Proof.Machine
end

section
/-! PROOFS. `hash32` over a readable buffer (spec/40_dispatcher.md R101): each read of a command with the bytes it
reads, the value it answers from them, and where it is stuck; the five paths are put together from the reads. -/

namespace Sys2Proof.Machine

open Sys2Proof

/-! ### A read that computes a value from the bytes it reads -/

/-- `r` reads the bytes of `b` at the offsets in `S`: it answers `v` of the contents there, each of them is readable
where it answers, and it is stuck only at one of them which is not readable (R60). -/
structure Buffer.Computes {α : Type} (b : Buffer) (S : Set Nat) (r : Except Fault α) (v : (Nat → Byte) → α) : Prop where
  value : ∀ data : Nat → Byte, (∀ o ∈ S, b.mem.byteAt (b.addr o) = some (data o)) → r = .ok (v data)
  readable : ∀ w, r = .ok w → ∀ o ∈ S, (b.mem.byteAt (b.addr o)).isSome = true
  stuck : ∀ f, r = .error f → ∃ o ∈ S, b.mem.byteAt (b.addr o) = none ∧ f = .unreadable (b.addr o)

namespace Buffer.Computes

variable {α β : Type} {b : Buffer} {c : Consts} {S T : Set Nat}

/-- The bytes and the value may be written in another way. -/
theorem congr {r : Except Fault α} {v w : (Nat → Byte) → α} (h : b.Computes S r v) (hS : ∀ o, o ∈ S ↔ o ∈ T)
    (hv : ∀ data, v data = w data) : b.Computes T r w := by
  obtain rfl : S = T := Set.ext hS
  obtain rfl : v = w := funext hv
  exact h

theorem pure (v : α) : b.Computes ∅ (.ok v) fun _ => v where
  value _ _ := rfl
  readable _ _ _ ho := ho.elim
  stuck _ h := nomatch h

/-- Two reads in a row. -/
theorem bind {r : Except Fault α} {v : (Nat → Byte) → α} {g : α → Except Fault β} {w : (Nat → Byte) → α → β}
    (hr : b.Computes S r v) (hg : ∀ x, b.Computes T (g x) fun data => w data x) :
    b.Computes (S ∪ T) (r >>= g) fun data => w data (v data) where
  value data hdata :=
    bind_ok.mpr ⟨v data, hr.value data fun o ho => hdata o (.inl ho),
      (hg (v data)).value data fun o ho => hdata o (.inr ho)⟩
  readable _ h := by
    obtain ⟨x, hx, hy⟩ := bind_ok.mp h
    exact fun o ho => ho.elim (hr.readable x hx o) ((hg x).readable _ hy o)
  stuck f h := by
    obtain hf | ⟨x, -, hf⟩ := bind_error.mp h
    · obtain ⟨o, ho, hstuck⟩ := hr.stuck f hf
      exact ⟨o, .inl ho, hstuck⟩
    · obtain ⟨o, ho, hstuck⟩ := (hg x).stuck f hf
      exact ⟨o, .inr ho, hstuck⟩

/-- A value computed from what one read answers. -/
theorem map {r : Except Fault α} {v : (Nat → Byte) → α} (hr : b.Computes S r v) (g : α → β) :
    b.Computes S (r >>= fun x => .ok (g x)) fun data => g (v data) := by
  simpa using hr.bind (w := fun _ => g) fun x => pure (g x)

/-! ### The reads of one operation -/

/-- Words at stated offsets. -/
theorem words {n : Nat} {off : Nat → Offset} {p : Fin n → Nat} (hoff : ∀ i : Fin n, off i = some (p i)) :
    b.Computes {o | ∃ i, p i ≤ o ∧ o < p i + 4} (b.words n off)
      fun data => Vector.ofFn fun i => dataWord data (p i) where
  value data hdata := words_ok.mpr fun i hi => by
    rw [hoff ⟨i, hi⟩, wordAt_some, Vector.getElem_ofFn]
    exact word_of_bytes fun o h1 h2 => hdata o ⟨⟨i, hi⟩, h1, h2⟩
  readable ws h o := fun ⟨i, h1, h2⟩ => wordAt_readable (hoff i ▸ words_ok.mp h i i.isLt) o h1 h2
  stuck f h := by
    obtain ⟨i, hi, he⟩ := words_error h
    obtain ⟨q, o, hq, h1, h2, hnone, hf⟩ := wordAt_error he
    obtain rfl : p ⟨i, hi⟩ = q := Option.some.inj ((hoff ⟨i, hi⟩).symm.trans hq)
    exact ⟨o, ⟨⟨i, hi⟩, h1, h2⟩, hnone, hf⟩

/-- A block folded into the lanes: word `i` of it into lane `i` (R85). -/
theorem absorb {n : Nat} (acc : Vector Word n) (p : Nat) (i : Intensity) :
    b.Computes {o | p ≤ o ∧ o < p + 4 * n} (b.absorb c acc (some p) i)
      fun data => Vector.ofFn fun j : Fin n => mix32 c acc[j] (dataWord data (p + 4 * j)) i where
  value data hdata := absorb_ok.mpr ⟨Vector.ofFn fun j : Fin n => dataWord data (p + 4 * j),
    (words fun j => blockOffset_some p j).value data fun o ⟨j, h1, h2⟩ => hdata o ⟨by omega, by omega⟩,
    Vector.ext fun j hj => by simp⟩
  readable acc' h o := fun ⟨h1, h2⟩ => absorb_readable h o h1 h2
  stuck f h := by
    obtain ⟨q, o, hq, h1, h2, hnone, hf⟩ := absorb_error h
    cases hq
    exact ⟨o, ⟨h1, h2⟩, hnone, hf⟩

/-- The four bytes of a tiny input are all its bytes (R84). -/
theorem packTiny (h1 : 1 ≤ b.len.toNat) (h4 : b.len.toNat ≤ 4) :
    b.Computes {o | o < b.len.toNat} b.packTiny fun data =>
      (data (b.len.toNat - 1) ++ data 0 ++ data (b.len.toNat / 4) ++ data (b.len.toNat / 2) : BitVec 32) where
  value data hdata := by
    rw [← tinyWord_eq_append]
    have hbyte (o : Nat) (ho : o < b.len.toNat) : b.byte o = .ok (data o) := byte_ok.mpr (hdata o ho)
    refine packTiny_ok.mpr ⟨_, _, _, _, hbyte 0 (by omega), ?_, hbyte _ (by omega), hbyte _ (by omega), rfl⟩
    rw [lenMinus_stated h1]
    exact hbyte _ (by omega)
  readable w hw o ho := by
    obtain ⟨first, last, mid1, mid2, hfirst, hlast, hmid1, hmid2, -⟩ := packTiny_ok.mp hw
    rw [lenMinus_stated h1, byteAt_some] at hlast
    have ho' : o < b.len.toNat := ho
    obtain rfl | rfl | rfl | rfl :
        o = 0 ∨ o = b.len.toNat - 1 ∨ o = b.len.toNat / 2 ∨ o = b.len.toNat / 4 := by omega
    · exact Option.isSome_of_eq_some (byte_ok.mp hfirst)
    · exact Option.isSome_of_eq_some (byte_ok.mp hlast)
    · exact Option.isSome_of_eq_some (byte_ok.mp hmid1)
    · exact Option.isSome_of_eq_some (byte_ok.mp hmid2)
  stuck f h := by
    obtain ⟨o, ho, hstuck⟩ := packTiny_error h
    rw [lenMinus_stated h1, Option.some.injEq] at ho
    exact ⟨o, show o < b.len.toNat by omega, hstuck⟩

end Buffer.Computes

/-! ### The specification's words (R83, R123, R145) -/

theorem lo32_eq_ofNat (len : Len) : lo32 len = BitVec.ofNat 32 len.toNat :=
  BitVec.eq_of_toNat_eq (by simp [lo32])

theorem carry32_eq_ofNat (len : Len) : carry32 len = BitVec.ofNat 32 (len.toNat / 2 ^ 32) :=
  BitVec.eq_of_toNat_eq (by simp [carry32, Nat.shiftRight_eq_div_pow])

theorem unseededSum_eq_laneSum {n : Nat} (table : Vector Word n) (lane : Fin n → Word) :
    unseededSum (Vector.ofFn lane) table = laneSum table lane := by
  rw [unseededSum, laneSum, Vector.toList_ofFn, List.ofFn_eq_map]
  simp

theorem mixLanes_ofFn {n : Nat} (c : Consts) (acc : Vector Word n) (w : Fin n → Word) (i : Intensity) :
    mixLanes c acc (Vector.ofFn w) i = Vector.ofFn fun j => mix32 c acc[j] (w j) i :=
  Vector.ext fun j hj => by simp

/-! ### Blocks in a row (R133, R147) -/

/-- `r` full blocks of `n` words, from block number `k` on: the rounds of the medium and of the long path. -/
def Buffer.absorbBlocks {n : Nat} (b : Buffer) (c : Consts) (k : Nat) :
    Nat → Vector Word n → Except Fault (Vector Word n)
  | 0, acc => .ok acc
  | r + 1, acc => b.absorb c acc (some (4 * n * k)) .inner >>= b.absorbBlocks c (k + 1) r

theorem mediumRounds_eq_absorbBlocks (c : Consts) (b : Buffer) (k r : Nat) (a : Vector Word 4) :
    mediumRounds c b k r a = b.absorbBlocks c k r a := by
  induction r generalizing k a with
  | zero => rfl
  | succ r ih => simp only [mediumRounds, Buffer.absorbBlocks, ih]

theorem longRounds_eq_absorbBlocks (c : Consts) (b : Buffer) (k r : Nat) (acc : Vector Word 32) :
    longRounds c b k r acc = b.absorbBlocks c k r acc := by
  induction r generalizing k acc with
  | zero => rfl
  | succ r ih => simp only [longRounds, Buffer.absorbBlocks, Buffer.round, ih]

/-- One lane over `r` full blocks of `size` bytes, from block number `k` on. -/
def laneBlocksFrom (c : Consts) (data : Nat → Byte) (size i k r : Nat) (h : Word) : Word :=
  (List.range' k r).foldl (fun h k => mix32 c h (dataWord data (size * k + 4 * i)) .inner) h

theorem laneBlocksFrom_zero (c : Consts) (data : Nat → Byte) (size i r : Nat) (h : Word) :
    laneBlocksFrom c data size i 0 r h = laneBlocks c data size i h r := by
  rw [laneBlocksFrom, laneBlocks, List.range_eq_range']

theorem laneBlocksFrom_succ (c : Consts) (data : Nat → Byte) (size i k r : Nat) (h : Word) :
    laneBlocksFrom c data size i k (r + 1) h =
      laneBlocksFrom c data size i (k + 1) r (mix32 c h (dataWord data (size * k + 4 * i)) .inner) := by
  rw [laneBlocksFrom, List.range'_succ, List.foldl_cons, laneBlocksFrom]

namespace Buffer.Computes

variable {b : Buffer} {c : Consts} {seed : Word}

/-- Lane `i` of the rounds is the fold over the blocks' words `i`: by induction on the number of blocks. -/
theorem absorbBlocks {n : Nat} (r k : Nat) (acc : Vector Word n) :
    b.Computes {o | 4 * n * k ≤ o ∧ o < 4 * n * (k + r)} (b.absorbBlocks c k r acc)
      fun data => Vector.ofFn fun i : Fin n => laneBlocksFrom c data (4 * n) i k r acc[i] := by
  induction r generalizing k acc with
  | zero =>
    refine (pure acc).congr (fun o => ?_) fun data => Vector.ext fun i hi => ?_
    · simp
    · simp [laneBlocksFrom]
  | succ r ih =>
    refine ((absorb acc (4 * n * k) .inner).bind fun acc' => ih (k + 1) acc').congr (fun o => ?_) fun data => ?_
    · simp only [Set.mem_union, Set.mem_ofPred_eq, Nat.mul_add, Nat.mul_one]
      omega
    · refine Vector.ext fun i hi => ?_
      simp [laneBlocksFrom_succ]

/-! ### The five paths (R101) -/

theorem tiny14Digest (h1 : 1 ≤ b.len.toNat) (h4 : b.len.toNat ≤ 4) :
    b.Computes {o | o < b.len.toNat} (tiny14Digest c b seed) fun data => hashTiny14 c data b.len seed := by
  refine ((packTiny h1 h4).map _).congr (fun _ => Iff.rfl) fun data => ?_
  rw [hashTiny14, lo32_eq_ofNat]

/-- The offsets of R121 cover a buffer of 5 to 16 bytes. -/
theorem shortOffsets_cover {n o : Nat} (h5 : 5 ≤ n) (h16 : n ≤ 16) :
    (∃ i : Fin 4, #v[0, n / 8 * 4, n - 4, n - 4 - n / 8 * 4][i] ≤ o ∧
      o < #v[0, n / 8 * 4, n - 4, n - 4 - n / 8 * 4][i] + 4) ↔ o < n := by
  simp [Fin.exists_fin_succ]
  omega

theorem shortDigest (h5 : 5 ≤ b.len.toNat) (h16 : b.len.toNat ≤ 16) :
    b.Computes {o | o < b.len.toNat} (shortDigest c b seed) fun data => hashShort c data b.len seed := by
  have hoff (i : Fin 4) : shortOffset b.len i = some #v[0, b.len.toNat / 8 * 4, b.len.toNat - 4,
      b.len.toNat - 4 - b.len.toNat / 8 * 4][i] := by
    rw [shortOffset_eq_table h5 h16 i.isLt]
    fin_cases i <;> rfl
  refine ((words hoff).map _).congr (fun o => shortOffsets_cover h5 h16) fun data => ?_
  rw [shortMediumDigest, mixLanes_ofFn, unseededSum_eq_laneSum, lo32_eq_ofNat, hashShort]
  simp

theorem mediumDigest (h17 : 17 ≤ b.len.toNat) :
    b.Computes {o | o < b.len.toNat} (mediumDigest c b seed) fun data => hashMedium c data b.len seed := by
  unfold Machine.mediumDigest
  rw [mediumRounds_eq_absorbBlocks, mediumBlocks_toNat (by omega), lenMinus_stated (by omega)]
  refine ((absorbBlocks _ 0 _).bind fun a => (absorb a _ .full).map _).congr (fun o => ?_) fun data => ?_
  · simp only [Set.mem_union, Set.mem_ofPred_eq]
    omega
  · rw [shortMediumDigest, unseededSum_eq_laneSum, lo32_eq_ofNat, hashMedium]
    simp [laneBlocksFrom_zero]

theorem longDigest (h128 : 128 ≤ b.len.toNat) :
    b.Computes {o | o < b.len.toNat} (longDigest c b seed) fun data => hashLong c data b.len seed := by
  unfold Machine.longDigest
  rw [longRounds_eq_absorbBlocks, longBlocks_toNat (by omega), lenMinus_stated h128]
  refine ((absorbBlocks _ 0 _).bind fun acc => (absorb acc _ .full).map _).congr (fun o => ?_) fun data => ?_
  · simp only [Set.mem_union, Set.mem_ofPred_eq]
    omega
  · rw [longMergeDigest, mergeSum, unseededSum_eq_laneSum, carry32_eq_ofNat, lo32_eq_ofNat, hashLong]
    simp [laneBlocksFrom_zero]

/-- The path of the length's class reads the whole buffer, and answers `hash32` of its contents. -/
theorem pathDigest : b.Computes {o | o < b.len.toNat} (pathDigest (lengthClass b.len) c b seed)
    fun data => hash32 c data b.len seed := by
  obtain ⟨hcls, h0⟩ | ⟨hcls, h1, h4⟩ | ⟨hcls, h5, h16⟩ | ⟨hcls, h17, h127⟩ | ⟨hcls, h128⟩ := lengthClass_cases b.len
  · rw [hcls]
    exact (pure (tiny0Digest c seed)).congr (by simp [h0]) fun data => (if_pos h0).symm
  · rw [hcls]
    exact (tiny14Digest h1 h4).congr (fun _ => Iff.rfl) fun data => by grind [hash32]
  · rw [hcls]
    exact (shortDigest h5 h16).congr (fun _ => Iff.rfl) fun data => by grind [hash32]
  · rw [hcls]
    exact (mediumDigest h17).congr (fun _ => Iff.rfl) fun data => by grind [hash32]
  · rw [hcls]
    exact (longDigest h128).congr (fun _ => Iff.rfl) fun data => by grind [hash32]

end Buffer.Computes

/-! ### The command (R90, R101) -/

/-- HASH32 in a core that is not busy, over a buffer that does not wrap, is its digest and then the rest of R90. -/
theorem exec_hash32_eq {s : State} {ptr : Addr} {len : Len} (seed : Word) (hidle : s.busy = false)
    (hfits : ptr.toNat + len.toNat ≤ 2 ^ 64) :
    exec (.hash32 ptr len seed) s =
      afterRead (pathDigest (lengthClass len) s.consts (s.writeOperands ptr len seed).accept.buffer seed)
        fun digest => .next (s.afterCommand ptr len seed digest) := by
  have hfits' : (s.writeOperands ptr len seed).bufferFits = true := bufferFits_iff.mpr hfits
  change s.runPath (lengthClass len) ptr len seed = _
  rw [State.runPath, hidle, hfits']
  rfl

theorem commandEndsWith_afterCommand (s : State) (ptr : Addr) (len : Len) (seed digest : Word) :
    commandEndsWith s ptr len seed digest (s.afterCommand ptr len seed digest) := rfl

/-- What R101 says of a command's digest, over the buffer at `ptr` of `len` bytes in the memory of `s`. -/
theorem command_computes (s : State) (ptr : Addr) (len : Len) (seed : Word) :
    (s.writeOperands ptr len seed).accept.buffer.Computes {o | o < len.toNat}
      (pathDigest (lengthClass len) s.consts (s.writeOperands ptr len seed).accept.buffer seed)
      fun data => hash32 s.consts data len seed :=
  Buffer.Computes.pathDigest

/-- A buffer of readable bytes does not wrap: no address from `2 ^ 64` on is readable (R51, log 8). -/
theorem fits_of_holds {m : Memory} {ptr : Addr} {len : Len} {data : Nat → Byte} (h : m.holds ptr len data) :
    ptr.toNat + len.toNat ≤ 2 ^ 64 := by
  by_contra hwraps
  have hpos : 0 < len.toNat := by
    have := ptr.isLt
    omega
  have hlast := h (len.toNat - 1) (by omega)
  have hnone : m.byteAt (ptr.toNat + (len.toNat - 1)) = none :=
    if_neg (Nat.not_lt.mpr (show 2 ^ 64 ≤ _ by omega))
  simp [hnone] at hlast

/-- Settles O42: the three parts of what the command's path computes. -/
theorem hash32ComputesTheHash : Obligations.Hash32ComputesTheHash := by
  intro s ptr len seed hidle
  have hpath := command_computes s ptr len seed
  refine ⟨fun data hdata => ?_, fun t ht => ?_, fun hfits off hoff hnone => ?_⟩
  · refine ⟨_, ?_, commandEndsWith_afterCommand s ptr len seed _⟩
    rw [exec_hash32_eq seed hidle (fits_of_holds hdata), hpath.value data hdata, afterRead_ok]
  · obtain ⟨-, -, digest, hdigest, -⟩ := runPath_next (cls := lengthClass len) ht
    exact hpath.readable digest hdigest
  · rw [exec_hash32_eq seed hidle hfits]
    cases hr : pathDigest (lengthClass len) s.consts (s.writeOperands ptr len seed).accept.buffer seed with
    | ok digest =>
      have hsome : (s.mem.byteAt (ptr.toNat + off)).isSome = true := hpath.readable digest hr off hoff
      simp [hnone] at hsome
    | error f =>
      obtain ⟨o, ho, hstuck, rfl⟩ := hpath.stuck f hr
      exact ⟨o, ho, hstuck, rfl⟩

end Sys2Proof.Machine
end

section
/-! PROOFS. The command in one step and its host program turn by turn (spec/30_encoding.md R90, spec/40_dispatcher.md
R106): the operand writes and START, then class by class the core's operations up to the read of `DIGEST`. -/

namespace Sys2Proof.Machine

open Sys2Proof

/-! ### Runs of the machine -/

section Runs

variable {M : Host.Core} {s t : M.State} (n : Nat)

theorem coreRun_of_next (h : M.step s = .next t) : M.run (n + 1) s = M.run n t := by
  rw [Host.Core.run, h]

theorem coreRun_of_fault {f : M.Fault} (h : M.step s = .fault f) : M.run (n + 1) s = .fault f := by
  rw [Host.Core.run, h]

theorem coreRun_of_refused {r : M.Refusal} (h : M.step s = .refused r) : M.run (n + 1) s = .refused r := by
  rw [Host.Core.run, h]

end Runs

/-- `n` steps of HG32 from `s`. -/
def State.run (s : State) (n : Nat) : Host.Outcome State Fault Refusal := Sys2Proof.core.run n s

/-- An operation that reads what two reads in a row answer. -/
theorem afterRead_bind {α β : Type} (r : Except Fault α) (g : α → Except Fault β)
    (k : β → Host.Outcome State Fault Refusal) :
    afterRead (r >>= g) k = afterRead r fun v => afterRead (g v) k := by
  cases r with
  | ok v => rfl
  | error f => rfl

/-- `s` with other turns to come. -/
def State.withTurns (s : State) (turns : List Turn) : State := { s with turns := turns }

/-- One turn of the list, where it only passes the turns after it on. -/
theorem run_withTurns {s t : State} {tn : Turn} {turns : List Turn}
    (h : doTurn tn (s.withTurns turns) = .next (t.withTurns turns)) (n : Nat) :
    (s.withTurns (tn :: turns)).run (n + 1) = (t.withTurns turns).run n :=
  coreRun_of_next (M := Sys2Proof.core) n h

theorem run_withTurns_of_refused {s : State} {tn : Turn} {turns : List Turn} {r : Refusal}
    (h : doTurn tn (s.withTurns turns) = .refused r) (n : Nat) : (s.withTurns (tn :: turns)).run (n + 1) = .refused r :=
  coreRun_of_refused (M := Sys2Proof.core) n h

theorem step_withTurns_core (s : State) (turns : List Turn) :
    step (s.withTurns (.core :: turns)) = exec s.phase.operation (s.withTurns turns) :=
  doTurn_core (s.withTurns turns)

/-- What the host program of R90 still does from `s` on: `n` turns of the core and the read of `DIGEST`. -/
def State.runToDigest (s : State) (n : Nat) (rest : List Turn) : Host.Outcome State Fault Refusal :=
  (s.withTurns (List.replicate n .core ++ .read .digest :: rest)).run (n + 1)

/-- `s` after its command has ended with this digest and the host has read it. -/
def State.ended (s : State) (rest : List Turn) (digest : Word) : State :=
  ((s.finish digest).setResult (digest.setWidth 64)).withTurns rest

section Steps

variable {s : State} {rest : List Turn}

/-- A core turn whose operation reads memory first. -/
theorem runToDigest_of_read {α : Type} {op : Instr} {r : Except Fault α} {f : α → State}
    (hop : s.phase.operation = op)
    (h : ∀ turns, exec op (s.withTurns turns) = afterRead r fun v => .next ((f v).withTurns turns)) (n : Nat) :
    s.runToDigest (n + 1) rest = afterRead r fun v => (f v).runToDigest n rest := by
  have hstep : step (s.withTurns (.core :: (List.replicate n .core ++ .read .digest :: rest))) =
      afterRead r fun v => .next ((f v).withTurns (List.replicate n .core ++ .read .digest :: rest)) :=
    (step_withTurns_core s _).trans (hop ▸ h _)
  cases r with
  | ok v => exact coreRun_of_next (M := Sys2Proof.core) (n + 1) hstep
  | error e => exact coreRun_of_fault (M := Sys2Proof.core) (n + 1) hstep

/-- A core turn whose operation reads no memory. -/
theorem runToDigest_of_next {op : Instr} {t : State} (hop : s.phase.operation = op)
    (h : ∀ turns, exec op (s.withTurns turns) = .next (t.withTurns turns)) (n : Nat) :
    s.runToDigest (n + 1) rest = t.runToDigest n rest :=
  runToDigest_of_read (r := .ok ()) (f := fun _ => t) hop h n

theorem runToDigest_finish (s : State) (digest : Word) :
    (s.finish digest).runToDigest 0 rest = .next (s.ended rest digest) := rfl

end Steps

/-! ### The rounds (R131, R143) -/

/-- The rounds as one read of all their blocks, from block number `k` on. `stage` is the path's state by accumulators,
`K` and `PHASE`; a round goes on to the tail after block number `NB - 1`. -/
theorem runToDigest_blocks {n : Nat} {b : Buffer} {c : Consts} {nb : Len} {stage : Vector Word n → Len → Phase → State}
    {round tail : Phase} (hphase : ∀ acc k, (stage acc k round).phase = round)
    (hround : ∀ acc k turns, exec round.operation ((stage acc k round).withTurns turns) =
      afterRead (b.absorb c acc (some (4 * n * k.toNat)) .inner) fun acc' =>
        .next ((stage acc' (k + 1) (if k.toNat + 1 = nb.toNat then tail else round)).withTurns turns))
    (m : Nat) (rest : List Turn) (r : Nat) (k : Len) (acc : Vector Word n) (hk : k.toNat + r = nb.toNat) :
    (stage acc k (if k.toNat = nb.toNat then tail else round)).runToDigest (m + r) rest =
      afterRead (b.absorbBlocks c k.toNat r acc) fun acc' => (stage acc' nb tail).runToDigest m rest := by
  induction r generalizing k acc with
  | zero =>
    obtain rfl : k = nb := BitVec.eq_of_toNat_eq hk
    rw [if_pos rfl]
    rfl
  | succ r ih =>
    have hsucc : (k + 1).toNat = k.toNat + 1 := toNat_add_one_of_lt (nb := nb) (by omega)
    rw [if_neg (by omega), ← Nat.add_assoc,
      runToDigest_of_read (congrArg _ (hphase acc k)) (hround acc k), Buffer.absorbBlocks, afterRead_bind]
    congr 1
    funext acc'
    rw [← hsucc, ih (k + 1) acc' (by omega)]

/-! ### The reading operations at stated lengths -/

/-- The packed word of a tiny input, mixed and complemented (R112). -/
def tiny14Mix (c : Consts) (w : Word) (len : Len) (seed : Word) : Word :=
  ~~~ short32 c (w ^^^ (c.prime[3] + seed)) (lo32 len ^^^ seed) true

theorem tiny14Digest_eq (c : Consts) (b : Buffer) (seed : Word) :
    tiny14Digest c b seed = b.packTiny >>= fun w => .ok (tiny14Mix c w b.len seed) := rfl

theorem exec_tiny14_of_one_le {s : State} (hlen : 1 ≤ s.len.toNat) :
    exec .tiny14 s = afterRead s.buffer.packTiny fun w =>
      .next (s.finish (tiny14Mix s.consts w s.len s.seed)) := by
  change execTiny14 s = _
  rw [execTiny14, lenMinus_stated hlen]
  rfl

theorem exec_shortAbsorb_of_four_le {s : State} (hlen : 4 ≤ s.len.toNat) :
    exec .shortAbsorb s = afterRead (s.buffer.words 4 (shortOffset s.len)) fun w =>
      .next { s with a := mixLanes s.consts s.a w .full, phase := .smFinal } := by
  change execShortAbsorb s = _
  rw [execShortAbsorb, lenMinus_stated hlen]
  rfl

theorem exec_medTail_of_le {s : State} (hlen : 16 ≤ s.len.toNat) :
    exec .medTail s = afterRead (s.buffer.absorb s.consts s.a (lenMinus s.len 16) .full) fun a =>
      .next { s with a := a, phase := .smFinal } := by
  change execMedTail s = _
  rw [execMedTail, lenMinus_stated hlen]
  rfl

theorem exec_longTail_of_le {s : State} (hlen : 128 ≤ s.len.toNat) :
    exec .longTail s = afterRead (s.buffer.absorb s.consts s.acc (lenMinus s.len 128) .full) fun acc =>
      .next { s with acc := acc, phase := .longMerge } := by
  change execLongTail s = _
  rw [execLongTail, lenMinus_stated hlen]
  rfl

/-! ### From the class's first operation to `DONE` (R105, R106) -/

/-- The state of the short and the medium path in `PHASE` `p`. -/
def State.smStage (s : State) (nb : Len) (a : Vector Word 4) (k : Len) (p : Phase) : State :=
  { s with a := a, k := k, nb := nb, phase := p }

/-- The state of the long path in `PHASE` `p`. -/
def State.longStage (s : State) (nb : Len) (acc : Vector Word 32) (k : Len) (p : Phase) : State :=
  { s with acc := acc, k := k, nb := nb, phase := p }

section Paths

variable (s : State) (rest : List Turn)

theorem runToDigest_tiny0 :
    (s.setPhase .tiny0).runToDigest 1 rest = .next (s.ended rest (tiny0Digest s.consts s.seed)) := by
  rw [← runToDigest_finish]
  exact runToDigest_of_next rfl (fun _ => rfl) 0

theorem runToDigest_tiny14 (hlen : 1 ≤ s.len.toNat) :
    (s.setPhase .tiny14).runToDigest 1 rest =
      afterRead (tiny14Digest s.consts s.buffer s.seed) fun digest => .next (s.ended rest digest) := by
  have hread : (s.setPhase .tiny14).runToDigest 1 rest = afterRead s.buffer.packTiny fun w =>
      (s.finish (tiny14Mix s.consts w s.len s.seed)).runToDigest 0 rest := by
      refine runToDigest_of_read rfl (fun turns => ?_) 0
      exact exec_tiny14_of_one_le (s := (s.setPhase .tiny14).withTurns turns) hlen
  rw [hread, tiny14Digest_eq, afterRead_bind]
  simp only [runToDigest_finish, afterRead_ok]
  rfl

/-- SM_FINAL ends the command whatever `K` and `NB` hold. -/
theorem runToDigest_smFinal (nb : Len) (a : Vector Word 4) (k : Len) :
    (s.smStage nb a k .smFinal).runToDigest 1 rest =
      .next (s.ended rest (shortMediumDigest s.consts (unseededSum a s.consts.prime) s.len s.seed)) := by
  rw [← runToDigest_finish]
  exact runToDigest_of_next rfl (fun _ => rfl) 0

theorem runToDigest_shortAbsorb (nb : Len) (a : Vector Word 4) (k : Len) (hlen : 4 ≤ s.len.toNat) (n : Nat) :
    (s.smStage nb a k .shortAbsorb).runToDigest (n + 1) rest =
      afterRead (s.buffer.words 4 (shortOffset s.len)) fun w =>
        (s.smStage nb (mixLanes s.consts a w .full) k .smFinal).runToDigest n rest := by
  refine runToDigest_of_read rfl (fun turns => ?_) n
  exact exec_shortAbsorb_of_four_le (s := (s.smStage nb a k .shortAbsorb).withTurns turns) hlen

theorem runToDigest_medTail (nb : Len) (a : Vector Word 4) (k : Len) (hlen : 16 ≤ s.len.toNat) (n : Nat) :
    (s.smStage nb a k .medTail).runToDigest (n + 1) rest =
      afterRead (s.buffer.absorb s.consts a (lenMinus s.len 16) .full) fun a' =>
        (s.smStage nb a' k .smFinal).runToDigest n rest := by
  refine runToDigest_of_read rfl (fun turns => ?_) n
  exact exec_medTail_of_le (s := (s.smStage nb a k .medTail).withTurns turns) hlen

/-- The rounds of the medium path; there are none where `NB = 0`. -/
theorem runToDigest_medRounds (nb : Len) (a : Vector Word 4) (n : Nat) :
    (s.smStage nb a 0 (if 0 = nb.toNat then .medTail else .medRound)).runToDigest (n + nb.toNat) rest =
      afterRead (mediumRounds s.consts s.buffer 0 nb.toNat a) fun a' =>
        (s.smStage nb a' nb .medTail).runToDigest n rest := by
  rw [mediumRounds_eq_absorbBlocks]
  exact runToDigest_blocks (b := s.buffer) (c := s.consts) (stage := s.smStage nb) (round := .medRound)
    (tail := .medTail) (fun _ _ => rfl)
    (fun a k turns => exec_medRound ((s.smStage nb a k .medRound).withTurns turns)) n rest nb.toNat 0 a
    (Nat.zero_add _)

theorem runToDigest_smInit_short (hlen : s.len.toNat ≤ 16) (n : Nat) :
    (s.setPhase .smInit).runToDigest (n + 1) rest =
      (s.smStage s.nb (seedLanes s.consts.prime s.seed) 0 .shortAbsorb).runToDigest n rest := by
  refine runToDigest_of_next rfl (fun turns => ?_) n
  exact (exec_smInit ((s.setPhase .smInit).withTurns turns)).trans (congrArg _ (if_pos hlen))

theorem runToDigest_smInit_medium (hlen : 16 < s.len.toNat) (n : Nat) :
    (s.setPhase .smInit).runToDigest (n + 1) rest =
      (s.smStage (mediumBlocks s.len) (seedLanes s.consts.prime s.seed) 0 .medRound).runToDigest n rest := by
  refine runToDigest_of_next rfl (fun turns => ?_) n
  exact (exec_smInit ((s.setPhase .smInit).withTurns turns)).trans (congrArg _ (if_neg (Nat.not_le.mpr hlen)))

theorem runToDigest_short (h5 : 5 ≤ s.len.toNat) (h16 : s.len.toNat ≤ 16) :
    (s.setPhase .smInit).runToDigest 3 rest =
      afterRead (shortDigest s.consts s.buffer s.seed) fun digest => .next (s.ended rest digest) := by
  rw [runToDigest_smInit_short s rest h16, runToDigest_shortAbsorb s rest _ _ _ (by omega), shortDigest,
    afterRead_bind]
  simp only [runToDigest_smFinal, afterRead_ok]
  rfl

theorem runToDigest_medium (h17 : 17 ≤ s.len.toNat) :
    (s.setPhase .smInit).runToDigest (2 + 1 + (mediumBlocks s.len).toNat) rest =
      afterRead (mediumDigest s.consts s.buffer s.seed) fun digest => .next (s.ended rest digest) := by
  have hblocks : 0 ≠ (mediumBlocks s.len).toNat := by
    rw [mediumBlocks_toNat (by omega)]
    omega
  have hrounds := runToDigest_medRounds s rest (mediumBlocks s.len) (seedLanes s.consts.prime s.seed) 2
  rw [if_neg hblocks] at hrounds
  rw [Nat.add_right_comm 2 1, runToDigest_smInit_medium s rest (by omega), hrounds, mediumDigest, afterRead_bind]
  simp only [runToDigest_medTail s rest _ _ _ (by omega : 16 ≤ s.len.toNat), runToDigest_smFinal, afterRead_bind,
    afterRead_ok]
  rfl

/-- LONG_MERGE ends the command whatever `K` and `NB` hold. -/
theorem runToDigest_longMerge (nb : Len) (acc : Vector Word 32) (k : Len) :
    (s.longStage nb acc k .longMerge).runToDigest 1 rest =
      .next (s.ended rest (longMergeDigest s.consts (mergeSum s.consts acc s.len) s.len)) := by
  rw [← runToDigest_finish]
  exact runToDigest_of_next rfl (fun _ => rfl) 0

theorem runToDigest_longTail (nb : Len) (acc : Vector Word 32) (k : Len) (hlen : 128 ≤ s.len.toNat) (n : Nat) :
    (s.longStage nb acc k .longTail).runToDigest (n + 1) rest =
      afterRead (s.buffer.round s.consts acc (lenMinus s.len 128) .full) fun acc' =>
        (s.longStage nb acc' k .longMerge).runToDigest n rest := by
  refine runToDigest_of_read rfl (fun turns => ?_) n
  exact exec_longTail_of_le (s := (s.longStage nb acc k .longTail).withTurns turns) hlen

/-- The rounds of the long path; there are none where `NB = 0`. -/
theorem runToDigest_longRounds (nb : Len) (acc : Vector Word 32) (n : Nat) :
    (s.longStage nb acc 0 (if 0 = nb.toNat then .longTail else .longRound)).runToDigest (n + nb.toNat) rest =
      afterRead (longRounds s.consts s.buffer 0 nb.toNat acc) fun acc' =>
        (s.longStage nb acc' nb .longTail).runToDigest n rest := by
  rw [longRounds_eq_absorbBlocks]
  exact runToDigest_blocks (b := s.buffer) (c := s.consts) (stage := s.longStage nb) (round := .longRound)
    (tail := .longTail) (fun _ _ => rfl)
    (fun acc k turns => exec_longRound ((s.longStage nb acc k .longRound).withTurns turns)) n rest nb.toNat 0 acc
    (Nat.zero_add _)

theorem runToDigest_longInit (hlen : 1 ≤ s.len.toNat) (n : Nat) :
    (s.setPhase .longInit).runToDigest (n + 1) rest =
      (s.longStage (longBlocks s.len) (seedLanes s.consts.accInit s.seed) 0
        (if s.len.toNat ≤ 128 then .longTail else .longRound)).runToDigest n rest := by
  refine runToDigest_of_next rfl (fun turns => ?_) n
  exact exec_longInit_of_one_le (s := (s.setPhase .longInit).withTurns turns) hlen

theorem runToDigest_long (h128 : 128 ≤ s.len.toNat) :
    (s.setPhase .longInit).runToDigest (2 + 1 + (longBlocks s.len).toNat) rest =
      afterRead (longDigest s.consts s.buffer s.seed) fun digest => .next (s.ended rest digest) := by
  have hblocks : s.len.toNat ≤ 128 ↔ 0 = (longBlocks s.len).toNat := by
    rw [longBlocks_toNat (by omega)]
    omega
  rw [Nat.add_right_comm 2 1, runToDigest_longInit s rest (by omega)]
  simp only [hblocks, runToDigest_longRounds, longDigest, afterRead_bind,
    runToDigest_longTail s rest _ _ _ h128, runToDigest_longMerge, afterRead_ok]
  rfl

/-! ### The command (R100, R106) -/

theorem runToDigest_dispatch (hphase : s.phase = .dispatch) (n : Nat) :
    s.runToDigest (n + 1) rest = (s.setPhase (dispatchTarget (lengthClass s.len))).runToDigest n rest :=
  runToDigest_of_next (t := s.setPhase (dispatchTarget (lengthClass s.len))) (congrArg _ hphase)
    (fun turns => exec_dispatch (s.withTurns turns)) n

/-- From DISPATCH on, in R106's number of core steps, the core computes the digest of the path of the length's class. -/
theorem runToDigest_coreSteps (hphase : s.phase = .dispatch) :
    s.runToDigest (coreSteps s.len) rest =
      afterRead (pathDigest (lengthClass s.len) s.consts s.buffer s.seed) fun digest =>
        .next (s.ended rest digest) := by
  unfold coreSteps
  obtain ⟨hcls, -⟩ | ⟨hcls, h1, -⟩ | ⟨hcls, h5, h16⟩ | ⟨hcls, h17, -⟩ | ⟨hcls, h128⟩ := lengthClass_cases s.len
  · rw [hcls]
    exact (runToDigest_dispatch s rest hphase 1).trans (by rw [hcls]; exact runToDigest_tiny0 s rest)
  · rw [hcls]
    exact (runToDigest_dispatch s rest hphase 1).trans (by rw [hcls]; exact runToDigest_tiny14 s rest h1)
  · rw [hcls]
    exact (runToDigest_dispatch s rest hphase 3).trans (by rw [hcls]; exact runToDigest_short s rest h5 h16)
  · rw [hcls]
    change s.runToDigest (3 + 1 + (s.len.toNat - 1) / 16) rest = _
    rw [← mediumBlocks_toNat (by omega), Nat.add_right_comm 3 1, runToDigest_dispatch s rest hphase, hcls]
    exact runToDigest_medium s rest h17
  · rw [hcls]
    change s.runToDigest (3 + 1 + (s.len.toNat - 1) / 128) rest = _
    rw [← longBlocks_toNat (by omega), Nat.add_right_comm 3 1, runToDigest_dispatch s rest hphase, hcls]
    exact runToDigest_long s rest h128

end Paths

/-! ### The host program (R90) -/

theorem hostProgram_append (ptr : Addr) (len : Len) (seed : Word) (rest : List Turn) :
    hostProgram ptr len seed ++ rest = .write .ptr ptr :: .write .len len :: .write .seed (seed.setWidth 64) ::
      .write .ctrl 1 :: (List.replicate (coreSteps len) .core ++ .read .digest :: rest) := by
  simp [hostProgram]

theorem writeSeed_of_wide (s : State) (seed : Word) :
    s.writeSeed (BitVec.ofNat 32 (seed.setWidth 64).toNat) = s.writeSeed seed :=
  congrArg s.writeSeed (BitVec.eq_of_toNat_eq (by simp; omega))

/-- The three operand writes, in a core that is not busy (R80). -/
theorem run_operandWrites {s : State} (ptr : Addr) (len : Len) (seed : Word) (hidle : s.busy = false)
    (turns : List Turn) (n : Nat) :
    (s.withTurns (.write .ptr ptr :: .write .len len :: .write .seed (seed.setWidth 64) :: turns)).run (n + 3) =
      ((s.writeOperands ptr len seed).withTurns turns).run n := by
  have hptr (turns : List Turn) : doTurn (.write .ptr ptr) (s.withTurns turns) =
      .next ((s.writePtr ptr).withTurns turns) :=
    (doTurn_write ptr _ rfl).trans (hostWrite_ptr ptr hidle)
  have hlen (turns : List Turn) : doTurn (.write .len len) ((s.writePtr ptr).withTurns turns) =
      .next (((s.writePtr ptr).writeLen len).withTurns turns) :=
    (doTurn_write len _ rfl).trans (hostWrite_len len hidle)
  have hseed : doTurn (.write .seed (seed.setWidth 64)) (((s.writePtr ptr).writeLen len).withTurns turns) =
      .next ((s.writeOperands ptr len seed).withTurns turns) :=
    (doTurn_write _ _ rfl).trans ((hostWrite_seed (s := ((s.writePtr ptr).writeLen len).withTurns turns) _ hidle).trans
      (congrArg _ (writeSeed_of_wide _ seed)))
  rw [run_withTurns (hptr _), run_withTurns (hlen _), run_withTurns hseed]

theorem doTurn_start (s : State) : doTurn (.write .ctrl 1) s = s.startCommand :=
  doTurn_write_start s (by decide)

/-- The host program of a core that is not busy: START and what follows it. -/
theorem run_hostProgram_of_not_busy {s : State} (ptr : Addr) (len : Len) (seed : Word) (hidle : s.busy = false)
    (rest : List Turn) : (s.withTurns (hostProgram ptr len seed ++ rest)).run (coreSteps len + 5) =
      exec (.hash32 ptr len seed) (s.withTurns rest) := by
  rw [hostProgram_append, run_operandWrites ptr len seed hidle _ (coreSteps len + 2)]
  by_cases hfits : ptr.toNat + len.toNat ≤ 2 ^ 64
  · have hstart (turns : List Turn) : doTurn (.write .ctrl 1) ((s.writeOperands ptr len seed).withTurns turns) =
        .next ((s.writeOperands ptr len seed).accept.withTurns turns) :=
      (doTurn_start _).trans (exec_start_of_accepted 0 hidle rfl (bufferFits_iff.mpr hfits))
    rw [run_withTurns (hstart _), exec_hash32_eq (s := s.withTurns rest) seed hidle hfits]
    exact runToDigest_coreSteps (s.writeOperands ptr len seed).accept rest rfl
  · have hwraps : 2 ^ 64 < ptr.toNat + len.toNat := Nat.not_le.mp hfits
    rw [exec_hash32_of_wraps (s := s.withTurns rest) seed hidle hwraps]
    have hstart (turns : List Turn) : doTurn (.write .ctrl 1) ((s.writeOperands ptr len seed).withTurns turns) =
        .refused .bufferWraps :=
      (doTurn_start _).trans (exec_start_of_wraps 0 hidle rfl (bufferFits_eq_false hwraps))
    exact run_withTurns_of_refused (hstart _) _

theorem run_hostProgram_of_busy {s : State} (ptr : Addr) (len : Len) (seed : Word) (hbusy : s.busy = true)
    (rest : List Turn) (n : Nat) :
    (s.withTurns (hostProgram ptr len seed ++ rest)).run (n + 1) = .refused .hostWriteWhileBusy := by
  have hwrite (turns : List Turn) :
      doTurn (.write .ptr ptr) (s.withTurns turns) = .refused .hostWriteWhileBusy :=
    doTurn_write_of_busy ptr (.inl rfl) hbusy
  rw [hostProgram_append]
  exact run_withTurns_of_refused (hwrite _) n

/-- Settles O43: a busy core refuses the first write, a buffer that wraps is refused at the START, and else the core's
steps compute the digest that the command answers. -/
theorem commandIsItsHostProgram : Obligations.CommandIsItsHostProgram := by
  intro s ptr len seed rest
  rw [Nat.add_comm]
  cases hbusy : s.busy with
  | true =>
    exact (run_hostProgram_of_busy ptr len seed hbusy rest (coreSteps len + 4)).trans
      (exec_hash32_of_busy (s := s.withTurns rest) ptr len seed hbusy).symm
  | false => exact run_hostProgram_of_not_busy ptr len seed hbusy rest

end Sys2Proof.Machine
end

section
/-! PROOFS. The tiny-input mixer (spec/41_tiny.md): TINY0 and TINY14 as operations and as rows of the command; the
rows are instances of what a row of any class answers over a readable buffer (R101). -/

namespace Sys2Proof.Machine

open Sys2Proof

/-! ### The operations (R110 to R112) -/

theorem exec_tiny0 (s : State) :
    exec .tiny0 s = .next ({ s with x := s.consts.prime[0] + s.seed }.finish (tiny0Digest s.consts s.seed)) := rfl

/-- Settles O25: TINY0 writes `X` and finishes. -/
theorem tiny0EndsWithItsDigest : Obligations.Tiny0EndsWithItsDigest :=
  fun s => ⟨_, exec_tiny0 s, endsWith_finish s _ (s.consts.prime[0] + s.seed) s.sum s.draws⟩

/-- TINY14 at its lengths is its path's digest, and then the end of the command. -/
theorem exec_tiny14_eq_digest {s : State} (hlen : 1 ≤ s.len.toNat) :
    exec .tiny14 s = afterRead (tiny14Digest s.consts s.buffer s.seed) fun digest => .next (s.finish digest) := by
  rw [exec_tiny14_of_one_le hlen, tiny14Digest_eq, afterRead_bind]
  rfl

/-- Settles O26: the path's digest over a readable buffer is the specification's. -/
theorem tiny14EndsWithItsDigest : Obligations.Tiny14EndsWithItsDigest := by
  intro s data h1 h4 hdata
  have hdigest : tiny14Digest s.consts s.buffer s.seed = .ok (hashTiny14 s.consts data s.len s.seed) :=
    (Buffer.Computes.tiny14Digest (b := s.buffer) h1 h4).value data hdata
  refine ⟨_, ?_, endsWith_finish s _ s.x s.sum s.draws⟩
  rw [exec_tiny14_eq_digest h1, hdigest, afterRead_ok]

/-! ### The rows of the command (R82, R101) -/

/-- A row of the length's class completes over a readable buffer, with `hash32` of its contents. -/
theorem runRow_completes {s : State} {cls : LengthClass} {ptr : Addr} {len : Len} {data : Nat → Byte} (seed : Word)
    (hcls : lengthClass len = cls) (hidle : s.busy = false) (hdata : s.mem.holds ptr len data) :
    ∃ t : State, s.runRow cls ptr len seed = .next t ∧
      commandEndsWith s ptr len seed (hash32 s.consts data len seed) t := by
  rw [runRow_lengthClass ptr len seed s hcls]
  obtain ⟨hcompletes, -, -⟩ := hash32ComputesTheHash s ptr len seed hidle
  exact hcompletes data hdata

/-- The empty buffer is readable at every address and in every memory. -/
theorem holds_zero (m : Memory) (ptr : Addr) (data : Nat → Byte) : m.holds ptr 0 data :=
  fun off hoff => absurd hoff (Nat.not_lt_zero off)

theorem hash32_zero (c : Consts) (data : Nat → Byte) (seed : Word) : hash32 c data 0 seed = hashTiny0 c seed :=
  if_pos rfl

/-- Settles O37: the row of the empty buffer, whose contents may be taken as any bytes. -/
theorem hash32Tiny0RowCompletes : Obligations.Hash32Tiny0RowCompletes := by
  intro s ptr seed hidle
  rw [exec_hash32Tiny0, ← hash32_zero s.consts (fun _ => 0)]
  exact runRow_completes seed rfl hidle (holds_zero s.mem ptr _)

theorem lengthClass_eq_tiny14 {len : Len} (h1 : 1 ≤ len.toNat) (h4 : len.toNat ≤ 4) : lengthClass len = .tiny14 :=
  (if_neg (Nat.one_le_iff_ne_zero.mp h1)).trans (if_pos h4)

theorem hash32_eq_hashTiny14 (c : Consts) (data : Nat → Byte) {len : Len} (seed : Word) (h1 : 1 ≤ len.toNat)
    (h4 : len.toNat ≤ 4) : hash32 c data len seed = hashTiny14 c data len seed :=
  (if_neg (Nat.one_le_iff_ne_zero.mp h1)).trans (if_pos h4)

/-- What both TINY14 rows run, at each of their lengths. -/
theorem runRow_tiny14_completes {s : State} {ptr : Addr} {len : Len} {data : Nat → Byte} (seed : Word)
    (h1 : 1 ≤ len.toNat) (h4 : len.toNat ≤ 4) (hidle : s.busy = false) (hdata : s.mem.holds ptr len data) :
    ∃ t : State, s.runRow .tiny14 ptr len seed = .next t ∧
      commandEndsWith s ptr len seed (hashTiny14 s.consts data len seed) t := by
  rw [← hash32_eq_hashTiny14 s.consts data seed h1 h4]
  exact runRow_completes seed (lengthClass_eq_tiny14 h1 h4) hidle hdata

/-- Settles O38: the two rows are one path, at 1 to 3 bytes and at 4. -/
theorem hash32Tiny14RowsComplete : Obligations.Hash32Tiny14RowsComplete := by
  intro s ptr seed data hidle
  refine ⟨fun len h1 h3 hdata => ?_, fun hdata => ?_⟩
  · exact runRow_tiny14_completes seed h1 (by omega) hidle hdata
  · rw [exec_hash32Tiny14Len4]
    exact runRow_tiny14_completes seed (by decide) (by decide) hidle hdata

end Sys2Proof.Machine
end

section
/-! PROOFS. The short-input mixer (spec/42_short.md): SM_INIT, SHORT_ABSORB and SM_FINAL as operations, each from its
equation in the specification's words, and the two SHORT rows of the command. -/

namespace Sys2Proof.Machine

open Sys2Proof

/-! ### SM_INIT (R120) -/

/-- `NB` of the medium path in the specification's words (R130). -/
theorem mediumBlocks_eq_ofNat {len : Len} (hlen : 1 ≤ len.toNat) :
    mediumBlocks len = BitVec.ofNat 64 ((len.toNat - 1) / 16) := by
  rw [← mediumBlocks_toNat hlen, BitVec.ofNat_toNat, BitVec.setWidth_eq]

/-- Settles O27: the two branches of SM_INIT, `NB` being that of R130 on the medium one. -/
theorem smInitSeedsTheAccumulators : Obligations.SmInitSeedsTheAccumulators := by
  refine fun s => ⟨fun hshort => ?_, fun hmedium => ?_⟩
  · rw [exec_smInit, if_pos hshort]
    rfl
  · rw [exec_smInit, if_neg (Nat.not_le.mpr hmedium), mediumBlocks_eq_ofNat (by omega)]
    rfl

/-! ### SHORT_ABSORB (R121, R122) -/

/-- The four words of R121 over a readable buffer, in the order of the accumulators (R122). -/
theorem words_of_short {b : Buffer} {data : Nat → Byte} (h5 : 5 ≤ b.len.toNat) (h16 : b.len.toNat ≤ 16)
    (hdata : b.mem.holds b.ptr b.len data) :
    b.words 4 (shortOffset b.len) = .ok #v[dataWord data 0, dataWord data (b.len.toNat / 8 * 4),
      dataWord data (b.len.toNat - 4), dataWord data (b.len.toNat - 4 - b.len.toNat / 8 * 4)] := by
  have hword {i p : Nat} (hi : i < 4) (hp : shortOffset b.len i = some p) :
      b.wordAt i (shortOffset b.len i) = .ok (dataWord data p) := by
    obtain ⟨q, hq, hinside⟩ := shortOffset_inside h5 h16 hi
    obtain rfl : p = q := Option.some.inj (hp.symm.trans hq)
    rw [hp, wordAt_some]
    exact word_of_bytes fun o _ ho => hdata o (by omega)
  refine words_ok.mpr fun i hi => ?_
  have htable := shortOffset_eq_table h5 h16 hi
  match i with
  | 0 | 1 | 2 | 3 => exact hword hi htable

/-- Settles O28: word `i` of R121 goes to `A[i]`. -/
theorem shortAbsorbMixesFourWords : Obligations.ShortAbsorbMixesFourWords := by
  intro s data h5 h16 hdata
  have hwords : s.buffer.words 4 (shortOffset s.len) = .ok _ := words_of_short (b := s.buffer) h5 h16 hdata
  rw [exec_shortAbsorb_of_four_le (by omega), hwords, afterRead_ok, mixLanes_four]
  rfl

/-! ### SM_FINAL (R123) -/

theorem unseededSum_four (a table : Vector Word 4) :
    unseededSum a table =
      (a[0] ^^^ table[0]) + (a[1] ^^^ table[1]) + (a[2] ^^^ table[2]) + (a[3] ^^^ table[3]) := by
  simp [unseededSum, Vector.toList_ofFn, List.ofFn_succ, BitVec.add_assoc]

theorem exec_smFinal (s : State) :
    exec .smFinal s = .next ({ s with sum := unseededSum s.a s.consts.prime }.finish
      (shortMediumDigest s.consts (unseededSum s.a s.consts.prime) s.len s.seed)) := rfl

/-- Settles O31: SM_FINAL writes `S` and finishes. -/
theorem smFinalEndsWithItsDigest : Obligations.SmFinalEndsWithItsDigest := by
  intro s
  rw [← unseededSum_four, ← lo32_eq_ofNat]
  exact ⟨_, exec_smFinal s, endsWith_finish s _ s.x (unseededSum s.a s.consts.prime) s.draws⟩

/-! ### The rows of the command (R82, R124) -/

theorem lengthClass_eq_short {len : Len} (h5 : 5 ≤ len.toNat) (h16 : len.toNat ≤ 16) : lengthClass len = .short := by
  rw [lengthClass, if_neg (by omega), if_neg (by omega), if_pos h16]

theorem hash32_eq_hashShort (c : Consts) (data : Nat → Byte) {len : Len} (seed : Word) (h5 : 5 ≤ len.toNat)
    (h16 : len.toNat ≤ 16) : hash32 c data len seed = hashShort c data len seed := by
  rw [hash32, if_neg (by omega), if_neg (by omega), if_pos h16]

/-- What both SHORT rows run, at each of their lengths. -/
theorem runRow_short_completes {s : State} {ptr : Addr} {len : Len} {data : Nat → Byte} (seed : Word)
    (h5 : 5 ≤ len.toNat) (h16 : len.toNat ≤ 16) (hidle : s.busy = false) (hdata : s.mem.holds ptr len data) :
    ∃ t : State, s.runRow .short ptr len seed = .next t ∧
      commandEndsWith s ptr len seed (hashShort s.consts data len seed) t := by
  rw [← hash32_eq_hashShort s.consts data seed h5 h16]
  exact runRow_completes seed (lengthClass_eq_short h5 h16) hidle hdata

/-- Settles O39: the two rows are one path, at 5 to 15 bytes and at 16. -/
theorem hash32ShortRowsComplete : Obligations.Hash32ShortRowsComplete := by
  intro s ptr seed data hidle
  refine ⟨fun len h5 h15 hdata => ?_, fun hdata => ?_⟩
  · exact runRow_short_completes seed h5 (by omega) hidle hdata
  · rw [exec_hash32ShortLen16]
    exact runRow_short_completes seed (by decide) (by decide) hidle hdata

end Sys2Proof.Machine
end

section
/-! PROOFS. The medium-input mixer (spec/43_medium.md): MED_ROUND and MED_TAIL as operations, each one block folded into
the accumulators, and the MEDIUM row of the command. -/

namespace Sys2Proof.Machine

open Sys2Proof

/-! ### MED_ROUND and MED_TAIL (R131, R132) -/

/-- A readable block folds word `j` of its contents into lane `j` (R85); the bytes around it need not be readable. -/
theorem absorb_of_readable {n p : Nat} {b : Buffer} {data : Nat → Byte} (c : Consts) (acc : Vector Word n)
    (i : Intensity) (hdata : ∀ off, p ≤ off → off < p + 4 * n → b.mem.byteAt (b.addr off) = some (data off)) :
    b.absorb c acc (some p) i =
      .ok (Vector.ofFn fun j : Fin n => mix32 c acc[j] (dataWord data (p + 4 * j)) i) :=
  (Buffer.Computes.absorb acc p i).value data fun off ⟨hstart, hend⟩ => hdata off hstart hend

/-- Settles O29: the block of R131 is number `K` before the increment, and so is the `K` of the test. -/
theorem medRoundAbsorbsBlockK : Obligations.MedRoundAbsorbsBlockK := by
  intro s data hdata
  rw [exec_medRound, absorb_of_readable (b := s.buffer) s.consts s.a .inner hdata, afterRead_ok]

/-- Settles O30: the block of R132 ends where the buffer ends. -/
theorem medTailAbsorbsTheLastBlock : Obligations.MedTailAbsorbsTheLastBlock := by
  intro s data hlen hdata
  have hblock (off : Nat) (hstart : s.len.toNat - 16 ≤ off) (hend : off < s.len.toNat - 16 + 4 * 4) :
      s.buffer.mem.byteAt (s.buffer.addr off) = some (data off) := hdata off hstart (by omega)
  rw [exec_medTail_of_le hlen, lenMinus_stated hlen, absorb_of_readable s.consts s.a .full hblock, afterRead_ok]

/-! ### The row of the command (R82, R133) -/

theorem lengthClass_eq_medium {len : Len} (h17 : 17 ≤ len.toNat) (h127 : len.toNat ≤ 127) :
    lengthClass len = .medium := by
  rw [lengthClass, if_neg (by omega), if_neg (by omega), if_neg (by omega), if_pos h127]

theorem hash32_eq_hashMedium (c : Consts) (data : Nat → Byte) {len : Len} (seed : Word) (h17 : 17 ≤ len.toNat)
    (h127 : len.toNat ≤ 127) : hash32 c data len seed = hashMedium c data len seed := by
  rw [hash32, if_neg (by omega), if_neg (by omega), if_neg (by omega), if_pos h127]

/-- Settles O40: the row is `hash32` of the contents, which at these lengths is the medium path (R101). -/
theorem hash32MediumRowCompletes : Obligations.Hash32MediumRowCompletes := by
  intro s ptr len seed data hidle h17 h127 hdata
  rw [← hash32_eq_hashMedium s.consts data seed h17 h127]
  exact runRow_completes seed (lengthClass_eq_medium h17 h127) hidle hdata

end Sys2Proof.Machine
end

section
/-! PROOFS. The long-input accumulator (spec/44_long.md): the lanes of a block one at a time, the round as an operation
of its own, LONG_INIT, LONG_ROUND, LONG_TAIL and LONG_MERGE, and the LONG row of the command. -/

namespace Sys2Proof.Machine

open Sys2Proof

/-! ### The lanes of a block (R146) -/

/-- Mixing lanes one at a time, none of them twice: each lane named is mixed with its word, every other is left as it
is. -/
theorem mixLanesInOrder_get {n : Nat} (c : Consts) (w : Vector Word n) (i : Intensity) {order : List (Fin n)}
    (horder : order.Nodup) (acc : Vector Word n) (j : Fin n) :
    (mixLanesInOrder c w i order acc)[j] = if j ∈ order then mix32 c acc[j] w[j] i else acc[j] := by
  induction order generalizing acc with
  | nil => simp [mixLanesInOrder]
  | cons l rest ih =>
    obtain ⟨hl, hrest⟩ := List.nodup_cons.mp horder
    rw [mixLanesInOrder, ih hrest]
    by_cases hjl : j = l
    · subst hjl
      simp [hl]
    · have hne : (l : Nat) ≠ j := fun h => hjl (Fin.ext h.symm)
      simp [hjl, Vector.getElem_set_ne _ _ hne]

/-- Settles O17: an order without repetition that names every lane mixes every lane once. -/
theorem laneOrderIsFree : Obligations.LaneOrderIsFree := by
  intro n c acc w i order hnodup hall
  refine Vector.ext fun j hj => ?_
  have hlane := mixLanesInOrder_get c w i hnodup acc ⟨j, hj⟩
  rw [if_pos (hall ⟨j, hj⟩)] at hlane
  rw [mixLanes_get]
  exact hlane

/-! ### The round (R142) -/

theorem exec_round (base : Len) (i : Intensity) (s : State) :
    exec (.round base i) s = afterRead (s.buffer.absorb s.consts s.acc (some base.toNat) i) fun acc =>
      .next { s with acc := acc } := rfl

/-- The round is stuck inside its block where a byte of the block is not readable. -/
theorem exec_round_of_unreadable {s : State} {base : Len} {off : Nat} (i : Intensity) (hstart : base.toNat ≤ off)
    (hend : off < base.toNat + 128) (hnone : s.mem.byteAt (s.ptr.toNat + off) = none) :
    ∃ o, base.toNat ≤ o ∧ o < base.toNat + 128 ∧ s.mem.byteAt (s.ptr.toNat + o) = none ∧
      exec (.round base i) s = .fault (.unreadable (s.ptr.toNat + o)) := by
  have hblock := Buffer.Computes.absorb (b := s.buffer) (c := s.consts) s.acc base.toNat i
  rw [exec_round]
  cases hr : s.buffer.absorb s.consts s.acc (some base.toNat) i with
  | ok acc =>
    have hsome : (s.mem.byteAt (s.ptr.toNat + off)).isSome = true := hblock.readable acc hr off ⟨hstart, hend⟩
    simp [hnone] at hsome
  | error f =>
    obtain ⟨o, ⟨ho, ho'⟩, hstuck, rfl⟩ := hblock.stuck f hr
    exact ⟨o, ho, ho', hstuck, rfl⟩

theorem exec_round_of_readable {s : State} {base : Len} {data : Nat → Byte} (i : Intensity)
    (hdata : ∀ off, base.toNat ≤ off → off < base.toNat + 128 →
      s.mem.byteAt (s.ptr.toNat + off) = some (data off)) :
    exec (.round base i) s = .next { s with
      acc := Vector.ofFn fun j : Fin 32 => mix32 s.consts s.acc[j] (dataWord data (base.toNat + 4 * j)) i } := by
  rw [exec_round, absorb_of_readable (b := s.buffer) s.consts s.acc i hdata, afterRead_ok]

/-- Settles O20: the block is stuck or read as a whole, and `mix32` of a lane (R164) is R142's step list under each
intensity, by the definitions of R160, R161 and R163. -/
theorem roundFoldsABlockIntoEveryLane : Obligations.RoundFoldsABlockIntoEveryLane := by
  refine fun s base i => ⟨fun _ => exec_round_of_unreadable i, fun data hdata => ?_⟩
  have hround := exec_round_of_readable i hdata
  refine ⟨?_, hround⟩
  cases i with
  | inner => exact hround
  | full => exact hround

/-! ### LONG_INIT (R140, R141) -/

/-- `NB` of the long path in the specification's words (R141). -/
theorem longBlocks_eq_ofNat {len : Len} (hlen : 1 ≤ len.toNat) :
    longBlocks len = BitVec.ofNat 64 ((len.toNat - 1) / 128) := by
  rw [← longBlocks_toNat hlen, BitVec.ofNat_toNat, BitVec.setWidth_eq]

/-- Settles O32: there is no full block exactly where the length is at most 128. -/
theorem longInitSeedsTheLanes : Obligations.LongInitSeedsTheLanes := by
  intro s hlen
  have hnone : s.len.toNat ≤ 128 ↔ (s.len.toNat - 1) / 128 = 0 := by omega
  rw [exec_longInit_of_one_le hlen, longBlocks_eq_ofNat hlen]
  simp only [hnone]
  rfl

/-! ### LONG_ROUND and LONG_TAIL (R143, R144) -/

/-- Settles O33: the block of R143 is number `K` before the increment, and so is the `K` of the test. -/
theorem longRoundFoldsBlockK : Obligations.LongRoundFoldsBlockK := by
  intro s data hdata
  rw [exec_longRound, absorb_of_readable (b := s.buffer) s.consts s.acc .inner hdata, afterRead_ok]

/-- Settles O34: the block of R144 ends where the buffer ends. -/
theorem longTailFoldsTheLastBlock : Obligations.LongTailFoldsTheLastBlock := by
  intro s data hlen hdata
  have hblock (off : Nat) (hstart : s.len.toNat - 128 ≤ off) (hend : off < s.len.toNat - 128 + 4 * 32) :
      s.buffer.mem.byteAt (s.buffer.addr off) = some (data off) := hdata off hstart (by omega)
  rw [exec_longTail_of_le hlen, lenMinus_stated hlen, absorb_of_readable s.consts s.acc .full hblock, afterRead_ok]

/-! ### LONG_MERGE (R145) -/

theorem exec_longMerge (s : State) :
    exec .longMerge s = .next ({ s with sum := mergeSum s.consts s.acc s.len }.finish
      (longMergeDigest s.consts (mergeSum s.consts s.acc s.len) s.len)) := rfl

/-- The sum of the merge lane by lane, with the carry term. -/
theorem mergeSum_eq_laneSum (c : Consts) (acc : Vector Word 32) (len : Len) :
    mergeSum c acc len = laneSum c.accInit (fun i => acc[i]) + BitVec.ofNat 32 (len.toNat / 2 ^ 32) := by
  have hlanes : Vector.ofFn (fun i : Fin 32 => acc[i]) = acc := Vector.ext fun j hj => by simp
  rw [mergeSum, carry32_eq_ofNat, ← unseededSum_eq_laneSum, hlanes]

theorem lo32_eq_ofNat_mod (len : Len) : lo32 len = BitVec.ofNat 32 (len.toNat % 2 ^ 32) :=
  BitVec.eq_of_toNat_eq (by simp [lo32])

/-- Settles O35: LONG_MERGE writes `S` and finishes. -/
theorem longMergeEndsWithItsDigest : Obligations.LongMergeEndsWithItsDigest := by
  intro s
  rw [← mergeSum_eq_laneSum, ← lo32_eq_ofNat_mod]
  exact ⟨_, exec_longMerge s, endsWith_finish s _ s.x (mergeSum s.consts s.acc s.len) s.draws⟩

/-! ### The row of the command (R82, R147) -/

theorem lengthClass_eq_long {len : Len} (h128 : 128 ≤ len.toNat) : lengthClass len = .long := by
  rw [lengthClass, if_neg (by omega), if_neg (by omega), if_neg (by omega), if_neg (by omega)]

theorem hash32_eq_hashLong (c : Consts) (data : Nat → Byte) {len : Len} (seed : Word) (h128 : 128 ≤ len.toNat) :
    hash32 c data len seed = hashLong c data len seed := by
  rw [hash32, if_neg (by omega), if_neg (by omega), if_neg (by omega), if_neg (by omega)]

/-- Settles O41: the row is `hash32` of the contents, which at these lengths is the long path (R101). -/
theorem hash32LongRowCompletes : Obligations.Hash32LongRowCompletes := by
  intro s ptr len seed data hidle h128 hdata
  rw [← hash32_eq_hashLong s.consts data seed h128]
  exact runRow_completes seed (lengthClass_eq_long h128) hidle hdata

end Sys2Proof.Machine
end

section
/-! PROOFS. The bit-mixing primitives (spec/45_primitives.md): the shift-and-xor steps, the multiply by 16-bit lanes,
the avalanche and the mix as functions of a word, and as operations of the function port. -/

namespace Sys2Proof.Machine

open Sys2Proof

/-! ### Logical shifts as arithmetic (R11) -/

theorem ushiftRight_eq_ofNat_div (x : Word) (n : Nat) : x >>> n = BitVec.ofNat 32 (x.toNat / 2 ^ n) := by
  rw [← Nat.shiftRight_eq_div_pow, ← BitVec.toNat_ushiftRight, BitVec.ofNat_toNat, BitVec.setWidth_eq]

theorem shiftLeft_eq_ofNat_mul_mod (x : Word) (n : Nat) :
    x <<< n = BitVec.ofNat 32 (x.toNat * 2 ^ n % 2 ^ 32) := by
  rw [← Nat.shiftLeft_eq, ← BitVec.toNat_shiftLeft, BitVec.ofNat_toNat, BitVec.setWidth_eq]

/-! ### Cancelling in xor -/

theorem xor_left_comm (x y z : Word) : x ^^^ (y ^^^ z) = y ^^^ (x ^^^ z) := by
  rw [← BitVec.xor_assoc, BitVec.xor_comm x, BitVec.xor_assoc]

theorem xor_xor_cancel (x y : Word) : x ^^^ (x ^^^ y) = y := by
  rw [← BitVec.xor_assoc, BitVec.xor_self, BitVec.zero_xor]

/-! ### The shift-and-xor steps (R160, R161) -/

@[simp] theorem sxA_zero : sxA 0 = 0 := rfl

@[simp] theorem sxB_zero : sxB 0 = 0 := rfl

/-- The shifts of R160 are by 8 and by more, so nothing reaches the top byte. -/
theorem topByte_sxA (x : Word) : (sxA x).extractLsb' 24 8 = x.extractLsb' 24 8 := by
  have hshift (n : Nat) (hn : 8 ≤ n) : (x >>> n).extractLsb' 24 8 = 0 := by
    ext i hi
    simpa using BitVec.getLsbD_of_ge x (n + (24 + i)) (by omega)
  rw [sxA, BitVec.extractLsb'_xor, BitVec.extractLsb'_xor, hshift 8 (by decide), hshift 21 (by decide)]
  simp

/-- Twice `sx_a`: the shifts by 8 and by 21 come twice and cancel, and of the shifts by 16, 29 and 42 only the first
remains: 29 comes twice, 42 leaves the word. -/
theorem sxA_sxA (x : Word) : sxA (sxA x) = x ^^^ (x >>> 16) := by
  have hout : x >>> 42 = 0#32 := BitVec.ushiftRight_eq_zero (by decide)
  simp only [sxA, BitVec.ushiftRight_xor_distrib, ← BitVec.shiftRight_add, Nat.reduceAdd, hout]
  simp only [BitVec.xor_assoc, BitVec.xor_comm, xor_left_comm, xor_xor_cancel, BitVec.xor_self, BitVec.zero_xor]

/-- Twice `sx_a` undoes itself: the high half is untouched, so the low half meets the same word twice. -/
theorem sxA_sxA_involutive : Function.Involutive (sxA ∘ sxA) := by
  intro x
  have hout : x >>> 32 = 0#32 := BitVec.ushiftRight_eq_zero (by decide)
  rw [Function.comp_apply, Function.comp_apply, sxA_sxA, sxA_sxA, BitVec.ushiftRight_xor_distrib,
    ← BitVec.shiftRight_add, hout, BitVec.xor_zero, BitVec.xor_assoc, BitVec.xor_self, BitVec.xor_zero]

/-- Settles O10: each logical shift of R160 is a division. -/
theorem sxAIsTheShiftXorStep : Obligations.SxAIsTheShiftXorStep := by
  refine ⟨fun x => ?_, sxA_zero, topByte_sxA, by decide, by decide, by decide⟩
  rw [sxA, ushiftRight_eq_ofNat_div x 8, ushiftRight_eq_ofNat_div x 21]

/-- Settles O11: the left shift of R161 is a product modulo 2^32, the right shift a division. -/
theorem sxBIsTheShiftXorStep : Obligations.SxBIsTheShiftXorStep := by
  refine ⟨fun x => ?_, sxB_zero, by decide, by decide, by decide, by decide⟩
  rw [sxB, shiftLeft_eq_ofNat_mul_mod x 12, ushiftRight_eq_ofNat_div x 7]

/-! ### The 16-bit lanes (R11) -/

theorem highHalf_append_lowHalf (x : Word) : (highHalf x ++ lowHalf x : BitVec 32) = x :=
  BitVec.extractLsb'_append_extractLsb' (w := 16) (len := 16)

theorem toNat_highHalf (x : Word) : (highHalf x).toNat = x.toNat / 2 ^ 16 := by
  rw [highHalf, BitVec.extractLsb'_toNat, Nat.shiftRight_eq_div_pow, Nat.mod_eq_of_lt]
  omega

theorem toNat_lowHalf (x : Word) : (lowHalf x).toNat = x.toNat % 2 ^ 16 := by
  rw [lowHalf, BitVec.extractLsb'_toNat, Nat.shiftRight_zero]

/-- A word's value from its two lanes. -/
theorem toNat_eq_halves (x : Word) : x.toNat = (highHalf x).toNat * 2 ^ 16 + (lowHalf x).toNat := by
  rw [toNat_highHalf, toNat_lowHalf, Nat.div_add_mod']

/-! ### The multiply by lanes (R162) -/

@[simp] theorem highHalf_mul16 (x m : Word) : highHalf (mul16 x m) = highHalf x * highHalf m :=
  BitVec.extractLsb'_append_eq_left

@[simp] theorem lowHalf_mul16 (x m : Word) : lowHalf (mul16 x m) = lowHalf x * lowHalf m :=
  BitVec.extractLsb'_append_eq_right

theorem toNat_mul16 (x m : Word) :
    (mul16 x m).toNat = (x.toNat / 2 ^ 16 * (m.toNat / 2 ^ 16)) % 2 ^ 16 * 2 ^ 16 +
      (x.toNat % 2 ^ 16 * (m.toNat % 2 ^ 16)) % 2 ^ 16 := by
  rw [toNat_eq_halves, highHalf_mul16, lowHalf_mul16, BitVec.toNat_mul, BitVec.toNat_mul, toNat_highHalf,
    toNat_highHalf, toNat_lowHalf, toNat_lowHalf]

theorem mul16_comm (x m : Word) : mul16 x m = mul16 m x := by
  rw [mul16, mul16, BitVec.mul_comm (highHalf x), BitVec.mul_comm (lowHalf x)]

@[simp] theorem mul16_zero (x : Word) : mul16 x 0 = 0 := by
  have hhigh : highHalf 0 = 0#16 := rfl
  have hlow : lowHalf 0 = 0#16 := rfl
  rw [mul16, hhigh, hlow, BitVec.mul_zero, BitVec.mul_zero]
  rfl

@[simp] theorem zero_mul16 (m : Word) : mul16 0 m = 0 := by
  rw [mul16_comm, mul16_zero]

/-- The word with 1 in either lane is neutral. -/
theorem mul16_ones (x : Word) : mul16 x 0x00010001 = x := by
  have hhigh : highHalf 0x00010001 = 1#16 := rfl
  have hlow : lowHalf 0x00010001 = 1#16 := rfl
  rw [mul16, hhigh, hlow, BitVec.mul_one, BitVec.mul_one, highHalf_append_lowHalf]

/-- Settles O12: the lanes multiply apart; where the low product overflows, as in `2 * 0x8000`, the 32-bit product is
another word. -/
theorem mul16MultipliesTheLanes : Obligations.Mul16MultipliesTheLanes := by
  refine ⟨toNat_mul16, zero_mul16, mul16_zero, mul16_ones, fun m => ?_, fun x m hlow => ?_, fun x m hhigh => ?_,
    ⟨2, 0x8000, by decide⟩, by decide, by decide, by decide⟩
  · rw [mul16_comm, mul16_ones]
  · rw [← toNat_lowHalf, lowHalf_mul16, BitVec.toNat_mul, toNat_lowHalf, hlow, Nat.zero_mul, Nat.zero_mod]
  · rw [← toNat_highHalf, highHalf_mul16, BitVec.toNat_mul, toNat_highHalf, hhigh, Nat.zero_mul, Nat.zero_mod]

/-! ### The avalanche and the mix (R163, R164) -/

theorem avalanche32_inner (c : Consts) (x : Word) :
    avalanche32 c x .inner = mul16 (sxB (mul16 (sxA x) c.m3)) c.m4 := rfl

theorem avalanche32_full (c : Consts) (x : Word) : avalanche32 c x .full = sxA (avalanche32 c x .inner) := rfl

@[simp] theorem avalanche32_zero (c : Consts) (i : Intensity) : avalanche32 c 0 i = 0 := by
  have hinner : avalanche32 c 0 .inner = 0 := by
    rw [avalanche32_inner, sxA_zero, zero_mul16, sxB_zero, zero_mul16]
  cases i with
  | inner => exact hinner
  | full => rw [avalanche32_full, hinner, sxA_zero]

/-- Settles O14: a step whose square is an involution is a bijection, and every step of the avalanche maps 0 to 0. -/
theorem sxAIsABijectionAndZeroIsFixed : Obligations.SxAIsABijectionAndZeroIsFixed := by
  have hsquare := sxA_sxA_involutive.bijective
  exact ⟨⟨hsquare.injective.of_comp, hsquare.surjective.of_comp⟩, avalanche32_zero⟩

/-- Settles O13: the two intensities by their equations; the example runs under the `M3` and `M4` of the rule. -/
theorem avalancheIsItsStepList : Obligations.AvalancheIsItsStepList := by
  refine fun c x => ⟨avalanche32_inner c x, avalanche32_full c x, fun hm3 hm4 => ?_⟩
  rw [avalanche32_full, avalanche32_inner, hm3, hm4]
  decide

theorem mix32_comm (c : Consts) (h x : Word) (i : Intensity) : mix32 c h x i = mix32 c x h i := by
  rw [mix32, mix32, BitVec.xor_comm]

theorem mix32_self (c : Consts) (h : Word) (i : Intensity) : mix32 c h h i = 0 := by
  rw [mix32, BitVec.xor_self, ← BitVec.ofNat_eq_ofNat, avalanche32_zero]

theorem mix32_zero (c : Consts) (h : Word) (i : Intensity) : mix32 c h 0 i = avalanche32 c h i := by
  rw [mix32, BitVec.ofNat_eq_ofNat, BitVec.xor_zero]

/-- Settles O15: the corner cases of R164 are those of xor, and of the avalanche at 0. -/
theorem mixIsTheAvalancheOfTheXor : Obligations.MixIsTheAvalancheOfTheXor := by
  refine fun c h x i => ⟨rfl, mix32_comm c h x i, mix32_self c h i, mix32_zero c h i, fun hm3 hm4 => ?_⟩
  rw [mix32, avalanche32_full, avalanche32_inner, hm3, hm4]
  decide

/-! ### The function port (log 17) -/

/-- An answer on the function port writes `result` and nothing else. -/
theorem answer_eq (s : State) (v : Word) : s.answer v = .next { s with result := v.setWidth 64 } := rfl

/-- Settles O18: each row of FUNC answers the value of its function. -/
theorem functionsAnswerTheirValue : Obligations.FunctionsAnswerTheirValue := fun s h x m seed2 =>
  ⟨answer_eq s (sxA x), answer_eq s (sxB x), answer_eq s (mul16 x m), answer_eq s (avalanche32 s.consts x .inner),
    answer_eq s (avalanche32 s.consts x .full), answer_eq s (mix32 s.consts h x .inner),
    answer_eq s (mix32 s.consts h x .full), answer_eq s (short32 s.consts x seed2 false),
    answer_eq s (short32 s.consts x seed2 true)⟩

end Sys2Proof.Machine
end

section
/-! PROOFS. The core's progress (spec/60_exceptions.md R180, R181): the two hypotheses under which a core turn has a
next state, and the absence of every other outcome by R57's table. -/

namespace Sys2Proof.Machine

open Sys2Proof

theorem tableReadable_of_bufferReadable {s : State} (hfits : s.phaseFits = true) (h : s.bufferReadable) :
    s.tableReadable :=
  fun off hoff => h off (reads_inside hfits hoff)

theorem not_stuckAt_of_tableReadable {s : State} {f : Fault} (h : s.tableReadable) : ¬s.stuckAt f := by
  rintro ⟨off, hreads, -, hnone⟩
  simpa [hnone] using h off hreads

/-- Settles O49: a core turn is never refused and is stuck only at an unreadable byte of R57's table, of which there
is none. -/
theorem coreRunsOnAReadableBuffer : Obligations.CoreRunsOnAReadableBuffer := by
  intro s hs hcore hreadable
  have ⟨_, hfits, _⟩ := hs
  obtain ⟨-, -, hstuck, hrefused⟩ := coreReadsOnlyTheBuffer s hs hcore
  have htable : s.tableReadable := hreadable.elim (tableReadable_of_bufferReadable hfits) id
  cases hstep : step s with
  | next t => exact ⟨t, rfl⟩
  | fault f => exact absurd (hstuck f hstep) (not_stuckAt_of_tableReadable htable)
  | refused r => exact absurd hstep (hrefused r)

end Sys2Proof.Machine
end

section
/-! PROOFS. Reset and hazards (spec/70_reset_and_hazards.md): control as a function of `PHASE`, `LEN`, `K` and `NB` alone
(R210), and a reset that abandons a command (R200 to R202). -/

namespace Sys2Proof.Machine

open Sys2Proof

/-! ### Control against data (R210) -/

/-- The registers that control may depend on are the same in both states (R210). -/
structure State.controlEq (s s' : State) : Prop where
  phase : s.phase = s'.phase
  len : s.len = s'.len
  k : s.k = s'.k
  nb : s.nb = s'.nb

section ControlEq

variable {s s' : State} (h : s.controlEq s')
include h

theorem State.controlEq.phaseFits : s.phaseFits = s'.phaseFits := by
  simp only [State.phaseFits, h.phase, h.len, h.k, h.nb]

theorem State.controlEq.phaseAfter : phaseAfter s = phaseAfter s' := by
  simp only [Machine.phaseAfter, h.phase, h.len, h.k, h.nb]

theorem State.controlEq.kAfter : s.kAfter = s'.kAfter := by
  simp only [State.kAfter, h.phase, h.k]

theorem State.controlEq.nbAfter : s.nbAfter = s'.nbAfter := by
  simp only [State.nbAfter, h.phase, h.len, h.nb]

end ControlEq

theorem ne_done_of_busy {s : State} (h : s.busy = true) : s.phase ≠ .done := (busy_iff.mp h).2

/-- The core's operation writes no operand register (R30). -/
theorem exec_operation_len {s t : State} (h : exec s.phase.operation s = .next t) : t.len = s.len := by
  cases hbusy : s.busy with
  | false =>
    rw [exec_operation_of_not_busy hbusy] at h
    cases h
    rfl
  | true =>
    obtain ⟨-, hlen, -⟩ := (exec_next_of_busy h hbusy).holdsCommand.1
    exact hlen

/-- A core turn takes its row of R105 and keeps `LEN`. -/
theorem coreTurn_control {s t : State} (hfits : s.phaseFits = true) (hcore : s.coreTurn) (h : step s = .next t) :
    s.controlStep t ∧ t.len = s.len := by
  rw [step_of_coreTurn hcore] at h
  have hrow := exec_operation_controlStep (s := { s with turns := s.turns.tail }) hfits h
  exact ⟨⟨hrow.phase, hrow.k, hrow.nb⟩, exec_operation_len (s := { s with turns := s.turns.tail }) h⟩

/-- Settles O54: both turns take the same row of R105, which reads and writes the four registers only. -/
theorem controlDoesNotDependOnData : Obligations.ControlDoesNotDependOnData := by
  intro s s' t t' hfits hcore hcore' hphase hlen hk hnb h h'
  have hsame : s.controlEq s' := ⟨hphase, hlen, hk, hnb⟩
  obtain ⟨hrow, hkeep⟩ := coreTurn_control hfits hcore h
  obtain ⟨hrow', hkeep'⟩ := coreTurn_control (hsame.phaseFits ▸ hfits) hcore' h'
  have hnext : t.phase = t'.phase := by rw [hrow.phase, hrow'.phase, hsame.phaseAfter]
  refine ⟨hnext, fun hbusy => ?_⟩
  have hdone : t.phase ≠ .done := ne_done_of_busy hbusy
  have hdone' : t'.phase ≠ .done := hnext ▸ hdone
  exact ⟨by rw [hkeep, hkeep', hlen], by rw [hrow.k hdone, hrow'.k hdone', hsame.kAfter],
    by rw [hrow.nb hdone, hrow'.nb hdone', hsame.nbAfter]⟩

/-! ### Reset (R200, R201, R202) -/

theorem status_of_idle {s : State} (h : s.phase = .idle) : s.status = 0 := by
  have hbusy : s.busy = false := busy_eq_false_iff.mpr (.inl h)
  have hdone : s.isDone = false := by
    rw [← Bool.not_eq_true, isDone_iff, h]
    nofun
  rw [State.status, hbusy, hdone]
  decide

theorem operandsWritten_resetEvent (s : State) : s.resetEvent.operandsWritten = false := by
  simp [State.operandsWritten]

theorem step_reset {s : State} {rest : List Turn} (h : s.turns = .reset :: rest) :
    step s = .next (s.withTurns rest).resetEvent :=
  step_of_turns h

theorem exec_start_resetEvent (s : State) (reserved : BitVec 31) :
    exec (.start reserved) s.resetEvent = .refused .operandUnwritten :=
  exec_start_of_unwritten reserved (busy_eq_false_iff.mpr (.inl s.resetEvent_phase)) (operandsWritten_resetEvent s)

/-- Settles O60: the event reset itself, which leaves no operand written. -/
theorem resetAbandonsTheCommand : Obligations.ResetAbandonsTheCommand := fun s rest hturns =>
  have hidle : (s.withTurns rest).resetEvent.phase = .idle := State.resetEvent_phase _
  ⟨(s.withTurns rest).resetEvent, step_reset hturns, hidle, status_of_idle hidle, State.resetEvent_consts _,
    State.resetEvent_mem _, State.resetEvent_turns _, State.resetEvent_result _, exec_start_resetEvent _⟩

end Sys2Proof.Machine
end
